-- ==== Sys2Proof/Word.lean ====
section
/-! DEFINITION. The word and byte types of the block (00_scope.md R9, R10, R11). -/

namespace Sys2Proof

/-- A bus word, an address, or a 32-bit register (R9). -/
abbrev Word := BitVec 32

/-- A byte; a symbol of the alphabet is a byte value, ordered as a number (R10, R11). -/
abbrev Byte := BitVec 8

end Sys2Proof
end

