-- ==== Sys2Proof/Config.lean ====
section
/-! DEFINITION. What an implementation fixes (00_scope.md R8) and the values the spec leaves undefined
(93_implementation_defined.md U1 to U8). -/

namespace Sys2Proof

/-- The two size parameters of R8, in bytes. They are fixed for one block and never change while it runs; a
state carries them, so that a statement over all states speaks of every size (log entry 1). -/
structure Params where
  /-- IBUF_SIZE -/
  ibufSize : Nat
  /-- OBUF_SIZE -/
  obufSize : Nat
deriving DecidableEq, Repr

namespace Config

/-- The sizes `State.reset` takes: those of 95_test_vectors.md's register-level vectors.
DESIGN CHOICE (log entry 1), unsafe for a claim about `State.reset` alone. -/
def resetParams : Params := { ibufSize := 4096, obufSize := 32768 }

/-- UNSPEC, the value the hardware does not define (R14): the byte at a buffer address in a numbered draw. It has
no body, so nothing can be proved of its value. DESIGN CHOICE (log entry 5), safe: any byte is allowed. -/
opaque unspecByte (draw address : Nat) : Byte

end Config

end Sys2Proof
end

