-- ==== Sys2Proof/Machine/State.lean ====
section
/-! DEFINITION. The state of the block (10_state.md), its reset value (R46, R47), and the reasons a step can stop. -/

namespace Sys2Proof.Machine

/-- The engine's sequencer state (R35). -/
inductive Phase where
  | idle
  | encCount
  | encBuild
  | encCodes
  | encWrite
  | decParse
  | decBuild
  | decUnpack
deriving DecidableEq, Repr

/-- The values of STATUS.RESULT (R94); codes 5 to 15 are never produced and have no constructor (93 X2). -/
inductive Result where
  | none
  | ok
  | containerFormatError
  | corruptStream
  | illegalCommand
deriving DecidableEq, Repr

/-- The stored fields of STATUS (R26 to R28); its other bits read as 0 and hold nothing (R29). -/
structure Status where
  busy : Bool
  done : Bool
  result : Result
deriving DecidableEq, Repr

/-- A node of the encoder tree (R37): W and SYM of a leaf (LEAF = 1), or W, LEFT and RIGHT of an internal node. -/
inductive EncNode where
  | leaf (weight : Word) (sym : Byte)
  | inner (weight : Word) (left right : BitVec 9)
deriving DecidableEq, Repr

/-- A node of the decoder tree (R41): DSYM of a leaf (DLEAF = 1), or DL and DR of an internal node, `none` for NONE. -/
inductive DecNode where
  | leaf (sym : Byte)
  | inner (left right : Option (BitVec 9))
deriving DecidableEq, Repr

/-- The working state of the engine (R35 to R41), each register at its stated width. A table is a list in index
order; a tree lists the nodes in use. -/
structure Engine where
  phase : Phase
  /-- FREQ[0..255] (R36) -/
  freq : List Word
  /-- encoder tree (R37) -/
  tree : List EncNode
  /-- LEN[0..255] (R38) -/
  len : List Byte
  /-- CODE[0..255] (R38) -/
  code : List (BitVec 255)
  /-- ACC and NACC (R39) -/
  acc : Byte
  nacc : BitVec 3
  /-- position counters (R40) -/
  ipos : Word
  opos : Word
  bpos : Word
  nout : Word
  /-- decoder tree (R41) -/
  dtree : List DecNode
deriving DecidableEq, Repr

/-- The engine right after reset: IDLE (R46); R47 leaves the rest UNSPEC and unobservable (R42).
DESIGN CHOICE (log entry 6): tables of 0, trees without a node, counters 0. Unsafe for a claim about these values. -/
def Engine.reset : Engine :=
  { phase := .idle
    freq := List.replicate 256 0
    tree := []
    len := List.replicate 256 0
    code := List.replicate 256 0
    acc := 0
    nacc := 0
    ipos := 0
    opos := 0
    bpos := 0
    nout := 0
    dtree := [] }

/-- The bytes of a buffer that hold a defined value, as (index, byte) pairs with strictly rising indices. -/
abbrev Memory := List Host.Cell

/-- What an index that is not listed holds: no defined value (UNSPEC, R47). The host or the engine reads a free value
there (`Config.unspecByte`). -/
def Memory.unlisted : Option Byte := none

/-- The canonical form: strictly rising indices, and no entry that says what an unlisted index says. -/
abbrev Memory.wf (m : Memory) : Prop :=
  m.Pairwise (fun c d => c.1 < d.1) ∧ ∀ c ∈ m, some c.2 ≠ Memory.unlisted

/-- The two responses of the bus (R48, R67). -/
inductive Resp where
  | okay
  | slverr
deriving DecidableEq, Repr

/-- The answer to one transaction: a read carries data, a write does not. -/
inductive BusAnswer where
  | read (resp : Resp) (data : Word)
  | write (resp : Resp)
deriving DecidableEq, Repr

/-- One transaction of the host: one 32-bit word at a block-local byte address (R60, R65). -/
inductive Transaction where
  | read (addr : Word)
  | write (addr data : Word)
deriving DecidableEq, Repr

/-- What the environment lets happen next (R7): a host transaction, the engine's turn to take its step, or a level on
the pin rst_n (`false` asserts reset). DESIGN CHOICE (log entry 2). -/
inductive Event where
  | host (t : Transaction)
  | engine
  | rst (level : Bool)
deriving DecidableEq, Repr

/-- Everything the spec gives the block, and the model's own `ibufDraw`, `obufDraw` and `env`. -/
structure State where
  /-- the size parameters (R8), constant -/
  params : Params
  /-- CTRL.IRQ_EN (R24) -/
  irqEn : Bool
  /-- STATUS (R26 to R29) -/
  status : Status
  /-- IN_LEN (R30) -/
  inLen : Word
  /-- OUT_LEN (R31) -/
  outLen : Word
  /-- IBUF (R33) -/
  ibuf : Memory
  /-- OBUF (R34) -/
  obuf : Memory
  /-- the engine's working state (R35 to R41) -/
  engine : Engine
  /-- the level of the pin rst_n (R48, R310) -/
  rstN : Bool
  /-- the answer to the last transaction since reset (R48, R67), log entry 9 -/
  bus : Option BusAnswer
  /-- the model's own: the draw IBUF's UNSPEC bytes belong to (R47, 93 U1), log entry 5 -/
  ibufDraw : Nat
  /-- the model's own: the draw OBUF's UNSPEC bytes belong to, the latest draw of all (93 U1, U3, U4), log entry 5 -/
  obufDraw : Nat
  /-- the model's own: what the environment does next, first event first, log entry 2 -/
  env : List Event
deriving DecidableEq, Repr

/-- The reasons the machine stops with a fault: none. Every error of 60_exceptions.md R270 is reported in STATUS or on
the bus and the block goes on, so no step raises a fault (safe: nothing is cut short). -/
inductive Fault where
deriving DecidableEq, Repr

/-- The reasons a step is refused. -/
inductive Refusal where
  /-- raised by `exec` for a command that has no meaning yet (safe: nothing is claimed of it) -/
  | notModelled (mnemonic : String)
  /-- raised by `step` for a host transaction while rst_n = 0, which the spec gives no meaning (R313, 93 T3: refuse;
  safe: nothing is claimed of it) -/
  | hostAccessInReset
deriving DecidableEq, Repr

/-- The block right after a reset (R46, R47, R311): the registers of R46, both buffers UNSPEC in a fresh draw, no
transaction answered yet. The parameters are the block's own and `env` is the environment's, so a reset keeps both. -/
def State.afterReset (p : Params) (draw : Nat) (env : List Event) : State :=
  { params := p
    irqEn := false
    status := { busy := false, done := false, result := .none }
    inLen := 0
    outLen := 0
    ibuf := []
    obuf := []
    engine := Engine.reset
    rstN := true
    bus := none
    ibufDraw := draw
    obufDraw := draw
    env := env }

/-- The machine right after reset, with nothing waiting in its environment (log entries 1, 3 and 5). -/
def State.reset : State := State.afterReset Config.resetParams 0 []

end Sys2Proof.Machine
end

