-- ==== Sys2Proof/Machine/Code.lean ====
section
/-! DEFINITION. Bits, big-endian integers, canonical codes and the Kraft sum (00_scope.md R13, R14, 30_encoding.md R99 to
R108), on natural numbers (R12). A table over the 256 symbols is a list of 256 numbers. -/

namespace Sys2Proof.Machine

/-- Entry `i` of a table, 0 beyond its end. -/
def tableAt (t : List Nat) (i : Nat) : Nat := t.getD i 0

/-- A table of 256 zeros. -/
def zeroTable : List Nat := List.replicate 256 0

/-- `bits_L(c)`: the L-bit string of c, most significant bit first (R13). -/
def bitsMsb (l c : Nat) : List Bool :=
  match l with
  | 0 => []
  | k + 1 => c.testBit k :: bitsMsb k c

/-- `be32(n)` (R13). -/
def be32 (n : Nat) : List Byte :=
  [BitVec.ofNat 8 (n / 2 ^ 24), BitVec.ofNat 8 (n / 2 ^ 16), BitVec.ofNat 8 (n / 2 ^ 8), BitVec.ofNat 8 n]

/-- `BitAt(Y, p)`: bit p of a byte sequence, counted from the first byte's bit 7 (R14, R105). -/
def bitAt (y : List Byte) (p : Nat) : Bool := (y.getD (p / 8) 0).toNat.testBit (7 - p % 8)

/-- All bits of a byte sequence in the order of R105: bit p is `bitAt y p`. -/
def bytesBits (y : List Byte) : List Bool := y.flatMap fun b => bitsMsb 8 b.toNat

/-- BLC: how many present symbols have each length; an absent symbol counts for none (R107). -/
def lengthCounts (len : List Nat) : List Nat :=
  (len.filter (0 < ·)).foldl (fun t l => t.modify l (· + 1)) zeroTable

/-- The first code of each length 1, 2, ...: `code <- (code + BLC[l-1]) << 1` over BLC[0], BLC[1], ... (R107). -/
def firstCodes (blc : List Nat) (code : Nat) : List Nat :=
  match blc with
  | [] => []
  | b :: rest => (2 * (code + b)) :: firstCodes rest (2 * (code + b))

/-- NEXT[0..255] at its start (R107); NEXT[0] is never used. -/
def nextCodes (len : List Nat) : List Nat := 0 :: firstCodes ((lengthCounts len).take 255) 0

/-- The last loop of R107: each present symbol, ascending, takes NEXT of its length, which then moves on. An absent
symbol has no code bits; its entry is 0 (log entry 7). -/
def assignCodes (len next : List Nat) : List Nat :=
  match len with
  | [] => []
  | 0 :: rest => 0 :: assignCodes rest next
  | (l + 1) :: rest => tableAt next (l + 1) :: assignCodes rest (next.modify (l + 1) (· + 1))

/-- CanonCodes(LEN) (R107). -/
def canonCodes (len : List Nat) : List Nat := assignCodes len (nextCodes len)

/-- The code of a symbol as a bit string, most significant bit first (R106). -/
def codeBits (len code : List Nat) (sym : Nat) : List Bool := bitsMsb (tableAt len sym) (tableAt code sym)

/-- The lengths of the present symbols, ascending by symbol. -/
def presentLengths (len : List Nat) : List Nat := len.filter (0 < ·)

/-- K(LEN), the Kraft sum in exact integers (R108). -/
def kraft (len : List Nat) : Nat := ((presentLengths len).map fun l => 2 ^ (255 - l)).sum

/-- The completeness test of R103 and R229, for S present symbols: {1} when S = 1, the Kraft equality otherwise. -/
def completeLengths (len : List Nat) (symCount : Nat) : Bool :=
  if symCount = 1 then decide (presentLengths len = [1]) else decide (kraft len = 2 ^ 255)

/-- A legal code-length set (R103), as a table over the 256 symbols. -/
def legalLengths (len : List Nat) : Bool :=
  decide (len.length = 256) && decide (presentLengths len ≠ []) && len.all (· ≤ 255) &&
  completeLengths len (presentLengths len).length

/-- The tag `48 46 43 01` (R96). -/
def tag : List Byte := [0x48#8, 0x46#8, 0x43#8, 0x01#8]

end Sys2Proof.Machine
end

