-- ==== Sys2Proof/Machine/Decoder.lean ====
section
/-! DEFINITION. The decoder (42_decoder.md): Decode as a function of its input, check by check, and the working state a
DECOMPRESS leaves in the engine. -/

namespace Sys2Proof.Machine

/-- The causes of a ContainerFormatError (R271). -/
inductive FormatCause where
  | shortHeader
  | badTag
  | shortSymtab
deriving DecidableEq, Repr

/-- The causes of a CorruptStream (R272). -/
inductive CorruptCause where
  | trailingData
  | badPad
  | zeroLength
  | symbolOrder
  | incompleteCode
  | noBits
  | outOfBits
  | fellOff
  | trailingBits
deriving DecidableEq, Repr

/-- What Decode raises (R220). Only the class is recorded, in RESULT; the cause names exist in the spec alone. -/
inductive DecodeFault where
  | containerFormat (cause : FormatCause)
  | corrupt (cause : CorruptCause)
deriving DecidableEq, Repr

/-- ORIG_LEN, the big-endian integer of bytes 4..7 (R99). -/
def origLen (x : List Byte) : Nat :=
  (x.getD 4 0).toNat * 2 ^ 24 + (x.getD 5 0).toNat * 2 ^ 16 + (x.getD 6 0).toNat * 2 ^ 8 + (x.getD 7 0).toNat

/-- PAD, byte 8 (R100). -/
def padField (x : List Byte) : Nat := (x.getD 8 0).toNat

/-- S from SCNT, byte 9 (R101). -/
def symCount (x : List Byte) : Nat := (x.getD 9 0).toNat + 1

/-- SYMTAB as its S entries (SYM_i, LEN_i), SYM_i at offset 10 + 2i and LEN_i after it (R102). -/
def symEntries (x : List Byte) : List (Nat × Nat) :=
  (List.range (symCount x)).map fun i => ((x.getD (10 + 2 * i) 0).toNat, (x.getD (11 + 2 * i) 0).toNat)

/-- BODY, the bytes from offset 10 + 2S on (R104). -/
def bodyBytes (x : List Byte) : List Byte := x.drop (10 + 2 * symCount x)

/-- The loop of ParseTable (R227, R228): `prev` is the previous entry's symbol. -/
def parseTable (entries : List (Nat × Nat)) (prev : Option Nat) (len : List Nat) :
    Except CorruptCause (List Nat) :=
  match entries with
  | [] => .ok len
  | (sym, l) :: rest =>
    if l = 0 then .error .zeroLength
    else if prev.any (fun q => decide (sym ≤ q)) then .error .symbolOrder
    else parseTable rest (some sym) (len.set sym l)

/-- What the checks before DEC_BUILD leave to do. -/
inductive Parsed where
  /-- the empty container (R223) -/
  | empty
  /-- N, the code lengths, and the bits of the bitstream (R104, R233) -/
  | stream (n : Nat) (len : List Nat) (bits : List Bool)
deriving DecidableEq, Repr

/-- The checks of R220 from the symbol table on (R226 to R230). -/
def parseBody (x : List Byte) : Except DecodeFault Parsed :=
  if 7 < padField x then .error (.corrupt .badPad)
  else
    match parseTable (symEntries x) none zeroTable with
    | .error c => .error (.corrupt c)
    | .ok len =>
      if completeLengths len (symCount x) = false then .error (.corrupt .incompleteCode)
      else if 8 * (bodyBytes x).length < padField x then .error (.corrupt .noBits)
      else .ok (.stream (origLen x) len ((bytesBits (bodyBytes x)).take (8 * (bodyBytes x).length - padField x)))

/-- The container parser of R220, check by check (R221 to R230). -/
def parse (x : List Byte) : Except DecodeFault Parsed :=
  if x.length < 8 then .error (.containerFormat .shortHeader)
  else if x.take 4 ≠ tag then .error (.containerFormat .badTag)
  else if origLen x = 0 then
    if x.length ≠ 8 then .error (.corrupt .trailingData) else .ok .empty
  else if x.length < 10 then .error (.containerFormat .shortHeader)
  else if x.length < 10 + 2 * symCount x then .error (.containerFormat .shortSymtab)
  else parseBody x

/-- A node of the decoder tree on natural numbers (R41); `none` is NONE. -/
inductive TrieNode where
  | leaf (sym : Nat)
  | inner (left right : Option Nat)
deriving DecidableEq, Repr

/-- The child of node `j` for a bit, 0 left and 1 right (R232, R234); a leaf has none. -/
def childOf (t : List TrieNode) (j : Nat) (b : Bool) : Option Nat :=
  match t[j]? with
  | some (.inner l r) => if b then r else l
  | _ => none

/-- Make `m` the child of node `j` for a bit (R232). -/
def setChild (t : List TrieNode) (j : Nat) (b : Bool) (m : Nat) : List TrieNode :=
  t.modify j fun n =>
    match n with
    | .leaf s => .leaf s
    | .inner l r => if b then .inner l (some m) else .inner (some m) r

/-- The inner loop of BuildTree (R232) for symbol `s`, from node `j` on: a missing node is made on the way, and the last
bit makes the leaf. -/
def insertCode (s : Nat) (bits : List Bool) (j : Nat) (t : List TrieNode) : List TrieNode :=
  match bits with
  | [] => t
  | [b] => setChild t j b t.length ++ [.leaf s]
  | b :: rest =>
    match childOf t j b with
    | some c => insertCode s rest c t
    | none => insertCode s rest t.length (setChild t j b t.length ++ [.inner none none])

/-- The symbols present in a table of lengths, ascending. -/
def codedSyms (len : List Nat) : List Nat := (List.range 256).filter fun s => decide (0 < tableAt len s)

/-- BuildTree (R232): node 0 is the root, then every present symbol's code in ascending symbol order. -/
def buildTrie (len code : List Nat) : List TrieNode :=
  (codedSyms len).foldl (fun t s => insertCode s (codeBits len code s) 0 t) [.inner none none]

/-- DSYM of a node, if it is a leaf (R41). -/
def leafSym (t : List TrieNode) (j : Nat) : Option Nat :=
  match t[j]? with
  | some (.leaf s) => some s
  | _ => none

/-- What the bit unpacker leaves: the symbols emitted, the number of bits not consumed, and why it stopped short. -/
structure Walk where
  emitted : List Byte
  left : Nat
  stop : Option CorruptCause
deriving DecidableEq, Repr

/-- Put an emitted symbol in front of what follows it. -/
def Walk.emit (w : Walk) (s : Nat) : Walk := { w with emitted := BitVec.ofNat 8 s :: w.emitted }

/-- Unpack (R234) from node `j`, with `n` symbols still to emit: bits must be left (R235), the child must exist (R236),
a leaf emits its symbol and the walk starts again at the root, and after the last symbol no bit may be left (R237). -/
def unpack (t : List TrieNode) (bits : List Bool) (j n : Nat) : Walk :=
  match bits, n with
  | bits, 0 => { emitted := [], left := bits.length, stop := if bits.isEmpty then none else some .trailingBits }
  | [], _ + 1 => { emitted := [], left := 0, stop := some .outOfBits }
  | b :: rest, k + 1 =>
    match childOf t j b with
    | none => { emitted := [], left := rest.length, stop := some .fellOff }
    | some c =>
      match leafSym t c with
      | some s => (unpack t rest 0 k).emit s
      | none => unpack t rest c (k + 1)

/-- DEC_BUILD and DEC_UNPACK on a parsed stream (R220, R231 to R237). -/
def unpackStream (n : Nat) (len : List Nat) (bits : List Bool) : Walk :=
  unpack (buildTrie len (canonCodes len)) bits 0 n

/-- The outcome of a walk: the emitted bytes, or why it stopped (R234). -/
def Walk.outcome (w : Walk) : Except DecodeFault (List Byte) :=
  match w.stop with
  | none => .ok w.emitted
  | some c => .error (.corrupt c)

/-- Decode (R220). -/
def huffDecode (x : List Byte) : Except DecodeFault (List Byte) :=
  match parse x with
  | .error e => .error e
  | .ok .empty => .ok []
  | .ok (.stream n len bits) => (unpackStream n len bits).outcome

/-- A node of the tree at its stored widths (R41). -/
def TrieNode.store (n : TrieNode) : DecNode :=
  match n with
  | .leaf s => .leaf (BitVec.ofNat 8 s)
  | .inner l r => .inner (l.map (BitVec.ofNat 9)) (r.map (BitVec.ofNat 9))

/-- Phase DEC_PARSE (R220, R227): writes LEN. -/
def Engine.decParse (g : Engine) (len : List Nat) : Engine :=
  { g with phase := .decParse, len := len.map (BitVec.ofNat 8) }

/-- Phase DEC_BUILD (R220, R231, R232): writes CODE and the decoder tree. -/
def Engine.decBuild (g : Engine) (len : List Nat) : Engine :=
  { g with
    phase := .decBuild
    code := (canonCodes len).map (BitVec.ofNat 255)
    dtree := (buildTrie len (canonCodes len)).map TrieNode.store }

/-- Phase DEC_UNPACK (R220, R234): the counters as the walk leaves them. -/
def Engine.decUnpack (g : Engine) (avail : Nat) (w : Walk) : Engine :=
  { g with
    phase := .decUnpack
    bpos := BitVec.ofNat 32 (avail - w.left)
    nout := BitVec.ofNat 32 w.emitted.length
    opos := BitVec.ofNat 32 w.emitted.length }

/-- The engine at the end of Decode (R220). A Decode that ends in DEC_PARSE leaves the tables as they were
(log entry 7). -/
def Engine.runDecode (g : Engine) (x : List Byte) : Engine :=
  match parse x with
  | .ok (.stream n len bits) =>
    ((g.decParse len).decBuild len).decUnpack bits.length (unpackStream n len bits)
  | _ => { g with phase := .decParse }

end Sys2Proof.Machine
end

