-- ==== Sys2Proof/Machine/Encoder.lean ====
section
/-! DEFINITION. The encoder (41_encoder.md): Encode as a function of its input, component by component, and the working
state a COMPRESS leaves in the engine. -/

namespace Sys2Proof.Machine

/-- The counting loop of R171 over the input bytes. -/
def countInto (inp : List Byte) (freq : List Nat) : List Nat :=
  match inp with
  | [] => freq
  | b :: rest => countInto rest (freq.modify b.toNat (· + 1))

/-- Count (R171). -/
def freqOf (inp : List Byte) : List Nat := countInto inp zeroTable

/-- P, the present symbols in ascending order (R172); S is its length. -/
def presentSyms (freq : List Nat) : List Nat := (List.range 256).filter fun s => decide (0 < tableAt freq s)

/-- A node of the encoder tree on natural numbers (R37, R175, R177). -/
inductive HuffNode where
  | leaf (weight sym : Nat)
  | inner (weight left right : Nat)
deriving DecidableEq, Repr

/-- W of a node (R37). -/
def HuffNode.weight (n : HuffNode) : Nat :=
  match n with
  | .leaf w _ => w
  | .inner w _ _ => w

/-- Nodes 0..S-1 (R175; R174 for S = 1). -/
def leafNodes (freq syms : List Nat) : List HuffNode := syms.map fun s => .leaf (tableAt freq s) s

/-- An unmerged node: its weight and its index. -/
abbrev Active := Nat × Nat

/-- R176: smaller weight first, then smaller index. -/
def comesBefore (a b : Active) : Bool := decide (a.1 < b.1) || (decide (a.1 = b.1) && decide (a.2 < b.2))

/-- Insert a node into the unmerged nodes, which are kept in the order of R176 (R177: any structure may hold them that
yields the same two nodes at every merge). -/
def insertActive (x : Active) (l : List Active) : List Active :=
  match l with
  | [] => [x]
  | y :: rest => if comesBefore x y then x :: y :: rest else y :: insertActive x rest

/-- A before the first merge: the leaves in the order of R176. -/
def initialActive (leaves : List HuffNode) : List Active :=
  (leaves.zipIdx.map fun p => (p.1.weight, p.2)).foldr insertActive []

/-- The merge loop of R177, at most `fuel` merges: the first node becomes the left child, the second the right (R178),
and the new node, numbered by its place in the array, joins the unmerged nodes. -/
def mergeLoop (fuel : Nat) (active : List Active) (nodes : List HuffNode) : List HuffNode :=
  match fuel, active with
  | k + 1, a :: b :: rest =>
    mergeLoop k (insertActive (a.1 + b.1, nodes.length) rest) (nodes ++ [.inner (a.1 + b.1) a.2 b.2])
  | _, _ => nodes

/-- The encoder tree (R174 to R177): leaves 0..S-1, then the S-1 internal nodes in creation order. -/
def buildTree (freq syms : List Nat) : List HuffNode :=
  mergeLoop (syms.length - 1) (initialActive (leafNodes freq syms)) (leafNodes freq syms)

/-- R179 over the given nodes: an internal node gives its children one more than its own depth. -/
def spreadDepths (nodes : List (HuffNode × Nat)) (depth : List Nat) : List Nat :=
  match nodes with
  | [] => depth
  | (.leaf _ _, _) :: rest => spreadDepths rest depth
  | (.inner _ l r, n) :: rest =>
    spreadDepths rest ((depth.set l (tableAt depth n + 1)).set r (tableAt depth n + 1))

/-- The depth of every node (R179): the root, which is the last node, has 0; a child has a smaller index than its
parent, so from the last node down every parent comes before its children. -/
def nodeDepths (nodes : List HuffNode) : List Nat :=
  spreadDepths nodes.zipIdx.reverse (List.replicate nodes.length 0)

/-- LEN from (symbol, length) pairs, 0 for every other symbol. -/
def lenTable (pairs : List (Nat × Nat)) : List Nat := pairs.foldl (fun t p => t.set p.1 p.2) zeroTable

/-- Lengths(P, S, FREQ): 1 by rule when S = 1 (R174), the leaf depths otherwise (R179). -/
def huffLengths (freq syms : List Nat) : List Nat :=
  match syms with
  | [s] => lenTable [(s, 1)]
  | _ => lenTable (syms.zip (nodeDepths (buildTree freq syms)))

/-- The code bits of an input, in input order (R182). -/
def streamBits (len code : List Nat) (inp : List Byte) : List Bool := inp.flatMap fun b => codeBits len code b.toNat

/-- T, the number of code bits (R181). -/
def totalBits (freq len syms : List Nat) : Nat := (syms.map fun s => tableAt freq s * tableAt len s).sum

/-- PAD for T code bits (R181). -/
def padCount (t : Nat) : Nat := (8 - t % 8) % 8

/-- ACC after one more bit (R182). -/
def pushBit (acc : Nat) (b : Bool) : Nat := (2 * acc + b.toNat) % 256

/-- The bit packer of R182: a byte is written when ACC holds 8 bits, and a last, partly filled byte is padded with 0. -/
def packBits (bits : List Bool) (acc nacc : Nat) : List Byte :=
  match bits with
  | [] => if 0 < nacc then [BitVec.ofNat 8 (acc * 2 ^ (8 - nacc) % 256)] else []
  | b :: rest =>
    if nacc + 1 = 8 then BitVec.ofNat 8 (pushBit acc b) :: packBits rest 0 0
    else packBits rest (pushBit acc b) (nacc + 1)

/-- What ACC and NACC hold at the end of R182. -/
def packRest (bits : List Bool) (acc nacc : Nat) : Nat × Nat :=
  match bits with
  | [] => (acc, nacc)
  | b :: rest => if nacc + 1 = 8 then packRest rest 0 0 else packRest rest (pushBit acc b) (nacc + 1)

/-- The symbol table of a container: (SYM_i, LEN_i), ascending (R102, R183). -/
def symTab (len syms : List Nat) : List Byte :=
  syms.flatMap fun s => [BitVec.ofNat 8 s, BitVec.ofNat 8 (tableAt len s)]

/-- The header of a container for N ≥ 1 (R97, R183). -/
def containerHeader (n : Nat) (freq len syms : List Nat) : List Byte :=
  tag ++ be32 n ++ [BitVec.ofNat 8 (padCount (totalBits freq len syms)), BitVec.ofNat 8 (syms.length - 1)] ++
    symTab len syms

/-- WriteContainer (R183): the header, then the packed body. -/
def writeContainer (inp : List Byte) (freq len code syms : List Nat) : List Byte :=
  containerHeader inp.length freq len syms ++ packBits (streamBits len code inp) 0 0

/-- P of an input. -/
def inputSyms (inp : List Byte) : List Nat := presentSyms (freqOf inp)

/-- LEN of an input. -/
def inputLengths (inp : List Byte) : List Nat := huffLengths (freqOf inp) (inputSyms inp)

/-- CODE of an input (R180). -/
def inputCodes (inp : List Byte) : List Nat := canonCodes (inputLengths inp)

/-- Encode (R170, R173). -/
def huffEncode (inp : List Byte) : List Byte :=
  match inp with
  | [] => tag ++ be32 0
  | _ => writeContainer inp (freqOf inp) (inputLengths inp) (inputCodes inp) (inputSyms inp)

/-- A node of the tree at its stored widths (R37). -/
def HuffNode.store (n : HuffNode) : EncNode :=
  match n with
  | .leaf w s => .leaf (BitVec.ofNat 32 w) (BitVec.ofNat 8 s)
  | .inner w l r => .inner (BitVec.ofNat 32 w) (BitVec.ofNat 9 l) (BitVec.ofNat 9 r)

/-- Phase ENC_COUNT (R170, R171): writes FREQ. -/
def Engine.encCount (g : Engine) (inp : List Byte) : Engine :=
  { g with phase := .encCount, freq := (freqOf inp).map (BitVec.ofNat 32), ipos := BitVec.ofNat 32 inp.length }

/-- Phase ENC_BUILD (R170, R174 to R179): writes the tree, and LEN from it. -/
def Engine.encBuild (g : Engine) (inp : List Byte) : Engine :=
  { g with
    phase := .encBuild
    tree := (buildTree (freqOf inp) (inputSyms inp)).map HuffNode.store
    len := (inputLengths inp).map (BitVec.ofNat 8) }

/-- Phase ENC_CODES (R170, R180): writes CODE. -/
def Engine.encCodes (g : Engine) (inp : List Byte) : Engine :=
  { g with phase := .encCodes, code := (inputCodes inp).map (BitVec.ofNat 255) }

/-- Phase ENC_WRITE (R170, R182): ACC, NACC and the positions as the packer leaves them. -/
def Engine.encWrite (g : Engine) (inp : List Byte) : Engine :=
  let rest := packRest (streamBits (inputLengths inp) (inputCodes inp) inp) 0 0
  { g with
    phase := .encWrite
    acc := BitVec.ofNat 8 rest.1
    nacc := BitVec.ofNat 3 rest.2
    ipos := BitVec.ofNat 32 inp.length
    opos := BitVec.ofNat 32 (huffEncode inp).length }

/-- The engine at the end of Encode (R170): an empty input stops after ENC_COUNT (R173). -/
def Engine.runEncode (g : Engine) (inp : List Byte) : Engine :=
  match inp with
  | [] => g.encCount inp
  | _ => (((g.encCount inp).encBuild inp).encCodes inp).encWrite inp

end Sys2Proof.Machine
end

