-- ==== Sys2Proof/Machine/Memory.lean ====
section
/-! DEFINITION. Operations over a buffer's defined bytes. Each keeps the canonical form `Memory.wf`. -/

namespace Sys2Proof.Machine

/-- The defined byte at an index, `Memory.unlisted` where there is none. -/
def Memory.get? (m : Memory) (i : Nat) : Option Byte :=
  match m with
  | [] => Memory.unlisted
  | c :: rest => if i = c.1 then some c.2 else Memory.get? rest i

/-- Store one byte at an index, keeping the indices strictly rising. -/
def Memory.set (m : Memory) (i : Nat) (b : Byte) : Memory :=
  match m with
  | [] => [(i, b)]
  | c :: rest =>
    if i < c.1 then (i, b) :: c :: rest
    else if i = c.1 then (i, b) :: rest
    else c :: Memory.set rest i b

/-- A buffer whose only defined bytes are `bs`, from index `i` on. -/
def Memory.ofBytes (i : Nat) (bs : List Byte) : Memory :=
  match bs with
  | [] => []
  | b :: rest => (i, b) :: Memory.ofBytes (i + 1) rest

end Sys2Proof.Machine
end

