-- ==== Sys2Proof/Machine/Operands.lean ====
section
/-! DEFINITION. Where a transaction goes (20_memory.md R61 to R66), how a word packs four bytes (R63, R74), and what the
buffers read as. -/

namespace Sys2Proof.Machine

/-- The eight registers of 10_state.md R20. -/
inductive Reg where
  | id
  | ibufSize
  | obufSize
  | ctrl
  | cmd
  | status
  | inLen
  | outLen
deriving DecidableEq, Repr

/-- Where an address leads: a register, the byte index of a mapped window word, or nowhere. -/
inductive Target where
  | reg (r : Reg)
  | ibuf (index : Nat)
  | obuf (index : Nat)
  | misaligned
  | unmapped
deriving DecidableEq, Repr

/-- IBUF_BASE (R61). -/
def ibufBase : Nat := 0x40000000

/-- OBUF_BASE (R61). -/
def obufBase : Nat := 0x80000000

/-- The byte offset of a register in the register region (R20, R62). -/
def Reg.offset (r : Reg) : Nat :=
  match r with
  | .id => 0x00
  | .ibufSize => 0x04
  | .obufSize => 0x08
  | .ctrl => 0x0C
  | .cmd => 0x10
  | .status => 0x14
  | .inLen => 0x18
  | .outLen => 0x1C

/-- The bus address of a register: REG_BASE is 0 (R61). -/
def Reg.addr (r : Reg) : Word := BitVec.ofNat 32 r.offset

/-- The register at an offset of region 00; every other word of the region is unmapped (R62). -/
def regAt (off : Nat) : Target :=
  if off = 0x00 then .reg .id
  else if off = 0x04 then .reg .ibufSize
  else if off = 0x08 then .reg .obufSize
  else if off = 0x0C then .reg .ctrl
  else if off = 0x10 then .reg .cmd
  else if off = 0x14 then .reg .status
  else if off = 0x18 then .reg .inLen
  else if off = 0x1C then .reg .outLen
  else .unmapped

/-- Decode an address: alignment (R65), then the region addr[31:30] (R61), then the offset in it (R62 to R64, R66). -/
def locate (p : Params) (addr : Word) : Target :=
  let off := (addr.extractLsb' 0 30).toNat
  if addr.extractLsb' 0 2 ≠ 0 then .misaligned
  else if addr.extractLsb' 30 2 = 0b00#2 then regAt off
  else if addr.extractLsb' 30 2 = 0b01#2 then (if off < p.ibufSize then .ibuf off else .unmapped)
  else if addr.extractLsb' 30 2 = 0b10#2 then (if off < p.obufSize then .obuf off else .unmapped)
  else .unmapped

/-- Four bytes as one word, the byte of the lowest index in bits 7:0 (R63, R153). -/
def packWord (b0 b1 b2 b3 : Byte) : Word := b3 ++ b2 ++ b1 ++ b0

/-- Byte `k` of a word, byte 0 in bits 7:0 (R63, R152). -/
def wordByte (w : Word) (k : Nat) : Byte := w.extractLsb' (8 * k) 8

/-- IBUF[i]: the byte stored there, or else a free value of IBUF's draw (R47, R68, 93 U1 and U6). -/
def State.ibufByte (s : State) (i : Nat) : Byte :=
  match s.ibuf.get? i with
  | some b => b
  | none => Config.unspecByte s.ibufDraw (ibufBase + i)

/-- OBUF[j]: the byte the last completion wrote there, or else a free value of OBUF's draw (R73, 93 U1, U3, U4). -/
def State.obufByte (s : State) (j : Nat) : Byte :=
  match s.obuf.get? j with
  | some b => b
  | none => Config.unspecByte s.obufDraw (obufBase + j)

/-- The word of the IBUF window at byte index `i` (R63, R153). -/
def State.ibufWord (s : State) (i : Nat) : Word :=
  packWord (s.ibufByte i) (s.ibufByte (i + 1)) (s.ibufByte (i + 2)) (s.ibufByte (i + 3))

/-- The word of the OBUF window at byte index `j` (R64, R153). -/
def State.obufWord (s : State) (j : Nat) : Word :=
  packWord (s.obufByte j) (s.obufByte (j + 1)) (s.obufByte (j + 2)) (s.obufByte (j + 3))

/-- The byte of the buffer space at a byte address (R14's MemRead of one byte); none outside the two mapped windows. -/
def State.memByte (s : State) (a : Nat) : Option Byte :=
  if ibufBase ≤ a ∧ a < ibufBase + s.params.ibufSize then some (s.ibufByte (a - ibufBase))
  else if obufBase ≤ a ∧ a < obufBase + s.params.obufSize then some (s.obufByte (a - obufBase))
  else none

/-- The operand of COMPRESS and DECOMPRESS: IBUF[0 .. IN_LEN-1] (R142, R143, R146). -/
def State.input (s : State) : List Byte := (List.range s.inLen.toNat).map s.ibufByte

/-- The output a host may read: OBUF[0 .. OUT_LEN-1] (R34, R318). -/
def State.output (s : State) : List Byte := (List.range s.outLen.toNat).map s.obufByte

end Sys2Proof.Machine
end

