-- ==== Sys2Proof/Machine/Flags.lean ====
section
/-! DEFINITION. STATUS, CTRL and irq as a host sees them (10_state.md R24 to R29, R32, 30_encoding.md R94, R95). -/

namespace Sys2Proof.Machine

/-- The code of RESULT (R94). -/
def Result.code (r : Result) : BitVec 4 :=
  match r with
  | .none => 0x0#4
  | .ok => 0x1#4
  | .containerFormatError => 0x2#4
  | .corruptStream => 0x3#4
  | .illegalCommand => 0x4#4

/-- The STATUS word: RESULT in bits 7:4, DONE in bit 1, BUSY in bit 0, every other bit 0 (R26 to R29, R95). -/
def Status.word (t : Status) : Word :=
  0#24 ++ t.result.code ++ 0#2 ++ BitVec.ofBool t.done ++ BitVec.ofBool t.busy

/-- The CTRL word: IRQ_EN in bit 0, bits 31:1 read as 0 (R24). -/
def ctrlWord (irqEn : Bool) : Word := 0#31 ++ BitVec.ofBool irqEn

/-- STATUS of an accepted command: BUSY 1, DONE 0, RESULT NONE (R142, R143). -/
def Status.accepted : Status := { busy := true, done := false, result := .none }

/-- STATUS of a completed command: BUSY 0, DONE 1 (R146). -/
def Status.completed (r : Result) : Status := { busy := false, done := true, result := r }

/-- STATUS after an illegal command: DONE 1, RESULT 4, BUSY as it was (R144). -/
def Status.illegal (t : Status) : Status := { t with done := true, result := .illegalCommand }

/-- STATUS after a host write of `w`: DONE is cleared when bit 1 is 1; every other bit of `w` is ignored (R148). -/
def Status.afterWrite (t : Status) (w : Word) : Status :=
  if w.getLsbD 1 then { t with done := false } else t

/-- The interrupt output, DONE AND IRQ_EN at every instant (R32). -/
def State.irq (s : State) : Bool := s.status.done && s.irqEn

end Sys2Proof.Machine
end

