-- ==== Sys2Proof/Machine/Ops.lean ====
section
/-! DEFINITION. The named updates of the state: single fields first, then accepting a command, taking an illegal
command, publishing a command's outcome (the block's "trap entry", 60_exceptions.md R275), clearing it (its "trap
return", R279), and reset. -/

namespace Sys2Proof.Machine

def State.setEnv (s : State) (e : List Event) : State := { s with env := e }

def State.respond (s : State) (a : BusAnswer) : State := { s with bus := some a }

def State.setIrqEn (s : State) (b : Bool) : State := { s with irqEn := b }

def State.setStatus (s : State) (t : Status) : State := { s with status := t }

def State.setInLen (s : State) (w : Word) : State := { s with inLen := w }

def State.setOutLen (s : State) (w : Word) : State := { s with outLen := w }

def State.setIbuf (s : State) (m : Memory) : State := { s with ibuf := m }

def State.setObuf (s : State) (m : Memory) (draw : Nat) : State := { s with obuf := m, obufDraw := draw }

def State.setEngine (s : State) (g : Engine) : State := { s with engine := g }

def State.setRstN (s : State) (b : Bool) : State := { s with rstN := b }

/-- Accept a command: BUSY 1, DONE 0, RESULT NONE, OUT_LEN 0, and the engine at the command's first phase
(R142, R143, 92 D34). -/
def State.accept (s : State) (p : Phase) : State :=
  ((s.setStatus Status.accepted).setOutLen 0).setEngine { s.engine with phase := p }

/-- Take an illegal command: DONE 1, RESULT 4, OUT_LEN 0; nothing else changes (R144, R273). -/
def State.takeIllegal (s : State) : State :=
  (s.setStatus s.status.illegal).setOutLen 0

/-- Publish the outcome of a command in one step (R146, R73, R275): OBUF holds `out` from index 0 and every other byte
of it becomes UNSPEC in a fresh draw, OUT_LEN is the length of `out`, RESULT is `r`, DONE 1, BUSY 0, the engine IDLE. -/
def State.publish (s : State) (r : Result) (out : List Byte) (g : Engine) : State :=
  (((s.setObuf (Memory.ofBytes 0 out) (s.obufDraw + 1)).setOutLen (BitVec.ofNat 32 out.length)).setStatus
    (Status.completed r)).setEngine { g with phase := .idle }

/-- Clear the pending outcome by a write to STATUS; RESULT and OUT_LEN stay (R148, R279). -/
def State.writeStatus (s : State) (w : Word) : State := s.setStatus (s.status.afterWrite w)

/-- Store a word in the IBUF window at byte index `i`, bits 7:0 at the lowest index (R152). -/
def State.writeIbufWord (s : State) (i : Nat) (w : Word) : State :=
  s.setIbuf ((((s.ibuf.set i (wordByte w 0)).set (i + 1) (wordByte w 1)).set (i + 2) (wordByte w 2)).set (i + 3)
    (wordByte w 3))

/-- Answer a CMD write: SLVERR without effect while BUSY (R145), otherwise the command's effect and OKAY (R140). -/
def State.onCommand (s : State) (effect : State → State) : State :=
  if s.status.busy then s.respond (.write .slverr) else (effect s).respond (.write .okay)

/-- A level on rst_n (R310). Low: the reset is asserted, and takes effect when the pin returns to 1, when every register
and working state is at its reset value and both buffers are UNSPEC in a fresh draw (R46, R47, R311, R322). A level the
pin already has changes nothing. -/
def State.driveReset (s : State) (level : Bool) : State :=
  if level then
    if s.rstN then s else State.afterReset s.params (s.obufDraw + 1) s.env
  else s.setRstN false

end Sys2Proof.Machine
end

