-- ==== Sys2Proof/Machine/Completion.lean ====
section
/-! DEFINITION. The engine's one step, the completion of an accepted command (40_commands.md R146). -/

namespace Sys2Proof.Machine

/-- A phase of a COMPRESS (R35, R146). -/
def Phase.isEncoder (p : Phase) : Bool :=
  match p with
  | .encCount => true
  | .encBuild => true
  | .encCodes => true
  | .encWrite => true
  | .idle => false
  | .decParse => false
  | .decBuild => false
  | .decUnpack => false

/-- RESULT of what Decode raised (R143, R270). -/
def DecodeFault.result (e : DecodeFault) : Result :=
  match e with
  | .containerFormat _ => .containerFormatError
  | .corrupt _ => .corruptStream

/-- The completion of a COMPRESS (R142, R146). -/
def State.completeEncode (s : State) : State :=
  s.publish .ok (huffEncode s.input) (s.engine.runEncode s.input)

/-- The completion of a DECOMPRESS (R143, R146, R275). -/
def State.completeDecode (s : State) : State :=
  match huffDecode s.input with
  | .ok out => s.publish .ok out (s.engine.runDecode s.input)
  | .error e => s.publish e.result [] (s.engine.runDecode s.input)

/-- The completion step (R146). -/
def State.complete (s : State) : State :=
  if s.engine.phase.isEncoder then s.completeEncode else s.completeDecode

/-- The engine's turn: its step is enabled exactly when BUSY = 1 (R146), and a reset that is asserted takes precedence
over it (R322). When it is not enabled, nothing changes (R289). -/
def State.engineTurn (s : State) : State :=
  if s.rstN && s.status.busy then s.complete else s

end Sys2Proof.Machine
end

