-- ==== Sys2Proof/Syntax.lean ====
section
/-! DEFINITION. The commands of spec/opcode_table.json and the fields of a command word (30_encoding.md R90, R91). -/

namespace Sys2Proof

/-- The instructions of this block: the command words of R91. None has an operand field; a command's operands are
IN_LEN and the bytes of IBUF (R90). -/
inductive Instr where
  /-- NOP, 0x00000000 (R141) -/
  | nop
  /-- COMPRESS, 0x00000001 (R142) -/
  | compress
  /-- DECOMPRESS, 0x00000002 (R143) -/
  | decompress
deriving DecidableEq, Repr

/-- The two fields of format CMD (R90). -/
structure CmdFields where
  /-- bits 3:0, the operation -/
  op : BitVec 4
  /-- bits 31:4, must be 0 -/
  rsvd : BitVec 28
deriving DecidableEq, Repr

end Sys2Proof
end

