-- ==== Sys2Proof/WellFormed.lean ====
section
/-! DEFINITION. The checks the spec puts on a block's parameters (00_scope.md R8) and on a command's fields
(30_encoding.md R90 to R92). -/

namespace Sys2Proof

/-- The constraints of R8 on the two sizes. -/
def Params.legal (p : Params) : Bool :=
  decide (4 ≤ p.ibufSize) && decide (p.ibufSize ≤ 2 ^ 27) && decide (p.ibufSize % 4 = 0) &&
  decide (p.obufSize % 4 = 0) && decide (p.obufSize ≤ 2 ^ 30) &&
  decide (max (8 * p.ibufSize) (p.ibufSize + 522) ≤ p.obufSize)

/-- A command word is legal when RSVD is 0 and OP is one of the three of R91; every other word is illegal (R92). -/
def CmdFields.legal (f : CmdFields) : Bool :=
  decide (f.rsvd = 0) && decide (f.op.toNat ≤ 2)

/-- An instruction has no operand, so every term of `Instr` is well formed (R90). -/
def Instr.wf (i : Instr) : Bool :=
  match i with
  | .nop => true
  | .compress => true
  | .decompress => true

end Sys2Proof
end

