-- ==== Sys2Proof/Decode.lean ====
section
/-! DEFINITION. Decoding and encoding a command word (30_encoding.md R90 to R92, 40_commands.md R140). -/

namespace Sys2Proof

/-- Why a word is no command (R92). -/
inductive DecodeError where
  /-- OP is in 0x3..0xF and RSVD is 0 -/
  | reservedOp
  /-- RSVD is not 0, whatever OP is -/
  | reservedBits
deriving DecidableEq, Repr

/-- The fields of a word (R90). -/
def cmdFields (w : Word) : CmdFields :=
  { op := w.extractLsb' 0 4, rsvd := w.extractLsb' 4 28 }

/-- R91: a command word is decoded by exact match on all 32 bits; R92: every other word is illegal. -/
def decode (w : Word) : Except DecodeError Instr :=
  if w = 0x00000000#32 then .ok .nop
  else if w = 0x00000001#32 then .ok .compress
  else if w = 0x00000002#32 then .ok .decompress
  else if (cmdFields w).rsvd = 0 then .error .reservedOp
  else .error .reservedBits

/-- The operation field of each command (R91). -/
def opOf (i : Instr) : BitVec 4 :=
  match i with
  | .nop => 0x0#4
  | .compress => 0x1#4
  | .decompress => 0x2#4

/-- The word of a command: RSVD 0 above its OP (R90, R91). -/
def encode (i : Instr) : Word := 0x0000000#28 ++ opOf i

/-- The bus word of a table row given as `nbits` bits of `w`, every bit above them 0. -/
def cmdWordOf (nbits w : Nat) : Word := BitVec.ofNat 32 (w % 2 ^ nbits)

/-- What the decoder reads from a table row's word. -/
def decodeTableWord (nbits w : Nat) : Option Instr :=
  match decode (cmdWordOf nbits w) with
  | .ok i => some i
  | .error _ => none

end Sys2Proof
end

