-- ==== Sys2Proof/Machine/Commands.lean ====
section
/-! DEFINITION. The meanings of the commands (40_commands.md R140 to R145): what a write of a command word to CMD does. -/

namespace Sys2Proof.Machine

/-- NOP (R141): no state changes; SLVERR while BUSY (R145). -/
def execNop (s : State) : Host.Outcome State Fault Refusal := .next (s.onCommand id)

/-- COMPRESS (R142): accepted in phase ENC_COUNT; its outcome comes with the completion step (R146). -/
def execCompress (s : State) : Host.Outcome State Fault Refusal :=
  .next (s.onCommand fun u => u.accept .encCount)

/-- DECOMPRESS (R143): accepted in phase DEC_PARSE; its outcome comes with the completion step (R146). -/
def execDecompress (s : State) : Host.Outcome State Fault Refusal :=
  .next (s.onCommand fun u => u.accept .decParse)

/-- Any other command word (R144). -/
def execIllegal (s : State) : Host.Outcome State Fault Refusal := .next (s.onCommand State.takeIllegal)

end Sys2Proof.Machine
end

