-- ==== Sys2Proof/Machine/Bus.lean ====
section
/-! DEFINITION. The host's transactions (40_commands.md R140, R147 to R154). -/

namespace Sys2Proof.Machine

/-- The constant of the ID register (R21). -/
def idWord : Word := 0x48464301#32

/-- The value a register reads as (R21 to R31, R151). -/
def State.readReg (s : State) (r : Reg) : Word :=
  match r with
  | .id => idWord
  | .ibufSize => BitVec.ofNat 32 s.params.ibufSize
  | .obufSize => BitVec.ofNat 32 s.params.obufSize
  | .ctrl => ctrlWord s.irqEn
  | .cmd => 0#32
  | .status => s.status.word
  | .inLen => s.inLen
  | .outLen => s.outLen

/-- The answer of a rejected read: SLVERR and data 0 (R67). -/
def readError : BusAnswer := .read .slverr 0#32

/-- The answer to a read (R151, R153; R65, R66 and R71 for the SLVERR cases). -/
def State.readAnswer (s : State) (addr : Word) : BusAnswer :=
  match locate s.params addr with
  | .reg r => .read .okay (s.readReg r)
  | .ibuf i => if s.status.busy then readError else .read .okay (s.ibufWord i)
  | .obuf j => if s.status.busy then readError else .read .okay (s.obufWord j)
  | .misaligned => readError
  | .unmapped => readError

/-- A write to CMD (R140): the meaning of the word's command, or the illegal command. Each of them answers SLVERR
without effect while BUSY (R145). -/
def writeCmd (w : Word) (s : State) : Host.Outcome State Fault Refusal :=
  match decode w with
  | .ok i => exec i s
  | .error _ => execIllegal s

/-- A write to IN_LEN (R149). -/
def State.writeInLen (s : State) (w : Word) : State :=
  if s.status.busy || decide (s.params.ibufSize < w.toNat) then s.respond (.write .slverr)
  else (s.setInLen w).respond (.write .okay)

/-- A write to a register: CTRL (R147), STATUS (R148), IN_LEN (R149), CMD (R140), and the read-only ones, where it is
ignored (R150). -/
def State.writeReg (s : State) (r : Reg) (w : Word) : Host.Outcome State Fault Refusal :=
  match r with
  | .id => .next (s.respond (.write .okay))
  | .ibufSize => .next (s.respond (.write .okay))
  | .obufSize => .next (s.respond (.write .okay))
  | .ctrl => .next ((s.setIrqEn (w.getLsbD 0)).respond (.write .okay))
  | .cmd => writeCmd w s
  | .status => .next ((s.writeStatus w).respond (.write .okay))
  | .inLen => .next (s.writeInLen w)
  | .outLen => .next (s.respond (.write .okay))

/-- A write (R147 to R150, R152; R65, R66 and R71 for the SLVERR cases). -/
def State.writeWord (s : State) (addr w : Word) : Host.Outcome State Fault Refusal :=
  match locate s.params addr with
  | .reg r => s.writeReg r w
  | .ibuf i =>
    .next (if s.status.busy then s.respond (.write .slverr) else (s.writeIbufWord i w).respond (.write .okay))
  | .obuf _ => .next (s.respond (.write (if s.status.busy then .slverr else .okay)))
  | .misaligned => .next (s.respond (.write .slverr))
  | .unmapped => .next (s.respond (.write .slverr))

/-- One host transaction (R65, R70). A read changes nothing but the answer on the bus (R68). -/
def State.transact (s : State) (t : Transaction) : Host.Outcome State Fault Refusal :=
  match t with
  | .read addr => .next (s.respond (s.readAnswer addr))
  | .write addr w => s.writeWord addr w

/-- What the environment's next event does (R7). While rst_n = 0 the host has no move (R310, R313). -/
def State.happen (s : State) (e : Event) : Host.Outcome State Fault Refusal :=
  match e with
  | .host t => if s.rstN then s.transact t else .refused .hostAccessInReset
  | .engine => .next s.engineTurn
  | .rst level => .next (s.driveReset level)

/-- One step: the environment's next event, or, when nothing waits, the engine's turn (R320: a completion does come). -/
def State.advance (s : State) : Host.Outcome State Fault Refusal :=
  match s.env with
  | [] => .next s.engineTurn
  | e :: rest => (s.setEnv rest).happen e

/-- The host writes `w` to CMD next. -/
def State.queueCmd (s : State) (w : Word) : State :=
  (s.setRstN true).setEnv (.host (.write Reg.cmd.addr w) :: s.env)

end Sys2Proof.Machine
end

