-- ==== Sys2Proof/Machine/Step.lean ====
section
/-! DEFINITION. The step of the machine, and placing a command where the next step takes it. -/

namespace Sys2Proof.Machine

/-- One step of the block and its environment (R7, R70). -/
def step (s : State) : Host.Outcome State Fault Refusal := s.advance

/-- The table row's word as the next write to CMD (log entry 3). The block fetches nothing (R44, R61); a command comes
from the host's bus, ahead of whatever else the host does, with rst_n high, since a host transaction needs it. -/
def State.withFetchWord (s : State) (nbits w : Nat) : State := s.queueCmd (cmdWordOf nbits w)

end Sys2Proof.Machine
end

