-- ==== Sys2Proof/Safety.lean ====
section
/-! DEFINITION. The terms the claims are stated in: the invariant of the block, where its output lies, what the host can
observe of a command, which transactions the bus rejects, and several steps in a row. -/

namespace Sys2Proof.Machine

/-- The engine's tables have their sizes (R36 to R38, R41). -/
structure Engine.Sized (g : Engine) : Prop where
  freq : g.freq.length = 256
  len : g.len.length = 256
  code : g.code.length = 256

/-- What holds of the block after reset and after every step. -/
structure State.Inv (s : State) : Prop where
  /-- the sizes meet R8 -/
  params : s.params.legal = true
  /-- IDLE exactly when BUSY = 0 (R35) -/
  idle : s.engine.phase = .idle ↔ s.status.busy = false
  /-- between two steps a running command is at its first phase, since its completion is one step (R142, R143, R146,
  log entry 8) -/
  running : s.status.busy = true → s.engine.phase = .encCount ∨ s.engine.phase = .decParse
  /-- IN_LEN always holds a legal value (R30) -/
  inLen : s.inLen.toNat ≤ s.params.ibufSize
  /-- while a command runs there is no outcome yet (R26 to R28, R31) -/
  pending : s.status.busy = true → s.status.result = .none
  /-- RESULT NONE goes with DONE = 0 (R27, R28, R94) -/
  fresh : s.status.result = .none → s.status.done = false
  /-- OUT_LEN is 0 unless the last command succeeded (R31) -/
  outLen : s.status.result ≠ .ok → s.outLen = 0
  /-- the buffers keep their canonical form, and IBUF lists only its own bytes (R33) -/
  ibuf : s.ibuf.wf
  obuf : s.obuf.wf
  ibufInside : ∀ c ∈ s.ibuf, c.1 < s.params.ibufSize
  /-- OBUF's draw is the latest (93 U1, U3, U4, log entry 5) -/
  draws : s.ibufDraw ≤ s.obufDraw
  sized : s.engine.Sized

/-- The output lies in OBUF, and each of its bytes is defined (R34, R72, R187, R238). -/
structure State.OutputInside (s : State) : Prop where
  outLen : s.outLen.toNat ≤ s.params.obufSize
  stored : ∀ c ∈ s.obuf, c.1 < s.params.obufSize
  defined : ∀ j, j < s.outLen.toNat → (s.obuf.get? j).isSome = true

/-- What a command leaves for the host to collect (R42): STATUS, OUT_LEN and the output bytes. -/
def State.outcome (s : State) : Word × Word × List Byte := (s.status.word, s.outLen, s.output)

/-- The address of a transaction. -/
def Transaction.addr (t : Transaction) : Word :=
  match t with
  | .read a => a
  | .write a _ => a

/-- The answers OKAY and SLVERR of a transaction's kind; SLVERR gives a read data 0 (R67). -/
def Transaction.slverr (t : Transaction) : BusAnswer :=
  match t with
  | .read _ => .read .slverr 0#32
  | .write _ _ => .write .slverr

/-- Whether an answer is SLVERR. -/
def BusAnswer.isSlverr (a : BusAnswer) : Bool :=
  match a with
  | .read .slverr _ => true
  | .write .slverr => true
  | .read .okay _ => false
  | .write .okay => false

/-- An address of a mapped window word (R63, R64), in numbers. -/
def inWindow (p : Params) (a : Nat) : Prop :=
  (0x40000000 ≤ a ∧ a < 0x40000000 + p.ibufSize) ∨ (0x80000000 ≤ a ∧ a < 0x80000000 + p.obufSize)

/-- The conditions under which a transaction is answered SLVERR (R154), in numbers: misaligned, unmapped, a window while
BUSY, a CMD write while BUSY (address 0x10), an IN_LEN write (0x18) while BUSY or above IBUF_SIZE. -/
def State.rejects (s : State) (t : Transaction) : Prop :=
  t.addr.toNat % 4 ≠ 0 ∨
  ¬ (t.addr.toNat < 0x20 ∨ inWindow s.params t.addr.toNat) ∨
  (s.status.busy = true ∧ inWindow s.params t.addr.toNat) ∨
  (∃ w, t = .write 0x10#32 w ∧ s.status.busy = true) ∨
  (∃ w, t = .write 0x18#32 w ∧ (s.status.busy = true ∨ s.params.ibufSize < w.toNat))

/-- W[i] of an encoder tree (R37). -/
def weightAt (t : List HuffNode) (i : Nat) : Nat :=
  match t[i]? with
  | some n => n.weight
  | none => 0

/-- Node `c` is not the child of any node made before node `n`: it is in the set A of R177 when node `n` is made. -/
def unmergedBefore (t : List HuffNode) (n c : Nat) : Prop :=
  c < n ∧ ∀ m w l r, m < n → t[m]? = some (.inner w l r) → c ≠ l ∧ c ≠ r

/-- The node a bit string leads to from the root of a decoder tree (R234), if every child on the way exists. -/
def descend (t : List TrieNode) (bits : List Bool) : Option Nat :=
  bits.foldl (fun j b => j.bind fun k => childOf t k b) (some 0)

/-- A stored node of the encoder tree (R37) in numbers. -/
def EncNode.load (n : EncNode) : HuffNode :=
  match n with
  | .leaf w s => .leaf w.toNat s.toNat
  | .inner w l r => .inner w.toNat l.toNat r.toNat

/-- A stored node of the decoder tree (R41) in numbers. -/
def DecNode.load (n : DecNode) : TrieNode :=
  match n with
  | .leaf s => .leaf s.toNat
  | .inner l r => .inner (l.map BitVec.toNat) (r.map BitVec.toNat)

/-- A transaction of the host, whatever it is. -/
def Event.isHost (e : Event) : Bool :=
  match e with
  | .host _ => true
  | .engine => false
  | .rst _ => false

/-- A level on the pin rst_n. -/
def Event.isRst (e : Event) : Bool :=
  match e with
  | .host _ => false
  | .engine => false
  | .rst _ => true

/-- `k` steps in a row. -/
def stepN (k : Nat) (s : State) : Host.Outcome State Fault Refusal :=
  match k with
  | 0 => .next s
  | j + 1 =>
    match step s with
    | .next t => stepN j t
    | .fault f => .fault f
    | .refused r => .refused r

end Sys2Proof.Machine
end

