-- ==== Sys2Proof/Certificates/Slice0/Obligations.lean ====
section
/-! DEFINITION. The statements for the provers. Each docstring names the rules of spec/ it rests on. -/

open Sys2Proof Sys2Proof.Machine

/-! ## The command word -/

/-- R91: a command word is decoded by exact match on all 32 bits. -/
def Obligations.CommandWordsDecode : Prop :=
  (∀ w : Word, (decode w = .ok .nop ↔ w = 0x00000000#32) ∧ (decode w = .ok .compress ↔ w = 0x00000001#32) ∧
    (decode w = .ok .decompress ↔ w = 0x00000002#32)) ∧
  (cmdFields 0x00000000#32).op = 0x0#4 ∧ (cmdFields 0x00000001#32).op = 0x1#4 ∧ (cmdFields 0x00000002#32).op = 0x2#4

/-- R92: the illegal words are those with OP in 0x3..0xF and those with RSVD not 0, and one written while idle completes
at once with ILLEGAL_COMMAND. -/
def Obligations.IllegalWordsRejected : Prop :=
  ∀ w : Word,
    ((∃ e, decode w = .error e) ↔ (3 ≤ (cmdFields w).op.toNat ∨ (cmdFields w).rsvd ≠ 0)) ∧
    ∀ s : State, s.status.busy = false → (∃ e, decode w = .error e) →
      ∃ t, writeCmd w s = .next t ∧ t.status.result = .illegalCommand ∧ t.status.done = true ∧ t.status.busy = false

/-- R90, R91: decode and encode agree, for every command and every word. -/
def Obligations.CommandEncodeDecode : Prop :=
  (∀ i : Instr, i.wf = true → decode (encode i) = .ok i ∧ (cmdFields (encode i)).legal = true) ∧
  ∀ (w : Word) (i : Instr), decode w = .ok i → encode i = w

/-- R140: when the host's next transaction writes a command word to CMD, the step is that command's meaning, at the
state without that transaction. -/
def Obligations.StepRunsDecodedCommand : Prop :=
  ∀ (s : State) (w : Word) (i : Instr) (rest : List Event),
    s.env = .host (.write 0x00000010#32 w) :: rest → s.rstN = true → decode w = .ok i →
    step s = exec i (s.setEnv rest)

/-- The interface's fetch word is the host's next CMD write (the model's choice, log entry 3). -/
def Obligations.FetchWordIsTheNextCommand : Prop :=
  ∀ (s : State) (nbits w : Nat) (i : Instr),
    decodeTableWord nbits w = some i → step (s.withFetchWord nbits w) = exec i (s.setRstN true)

/-! ## The commands -/

/-- R141: NOP changes no state and is answered OKAY; while BUSY it is rejected like any CMD write. -/
def Obligations.NopCompletes : Prop :=
  ∀ s : State,
    (s.status.busy = false → exec .nop s = .next { s with bus := some (.write .okay) }) ∧
    (s.status.busy = true → exec .nop s = .next { s with bus := some (.write .slverr) })

/-- R142, its acceptance: BUSY 1, DONE 0, RESULT NONE, OUT_LEN 0, phase ENC_COUNT, and nothing else but the answer. -/
def Obligations.CompressIsAccepted : Prop :=
  ∀ s : State, s.status.busy = false →
    exec .compress s = .next
      { s with
        status := { busy := true, done := false, result := .none }
        outLen := 0
        engine := { s.engine with phase := .encCount }
        bus := some (.write .okay) }

/-- R143, its acceptance: BUSY 1, DONE 0, RESULT NONE, OUT_LEN 0, phase DEC_PARSE, and nothing else but the answer. -/
def Obligations.DecompressIsAccepted : Prop :=
  ∀ s : State, s.status.busy = false →
    exec .decompress s = .next
      { s with
        status := { busy := true, done := false, result := .none }
        outLen := 0
        engine := { s.engine with phase := .decParse }
        bus := some (.write .okay) }

/-- The frame of the three commands (R141 to R143, R145): registers, buffers, working tables and every byte of the
buffer space stay; NOP, and any command while BUSY, keep STATUS, OUT_LEN and the engine; an accepted command writes
STATUS, OUT_LEN and the phase, and nothing more. -/
def Obligations.CommandFrame : Prop :=
  ∀ (i : Instr) (s t : State), exec i s = .next t →
    t.params = s.params ∧ t.irqEn = s.irqEn ∧ t.inLen = s.inLen ∧ t.ibuf = s.ibuf ∧ t.obuf = s.obuf ∧
    t.ibufDraw = s.ibufDraw ∧ t.obufDraw = s.obufDraw ∧ t.rstN = s.rstN ∧ t.env = s.env ∧
    t.engine = { s.engine with phase := t.engine.phase } ∧ (∀ a, t.memByte a = s.memByte a) ∧
    ((s.status.busy = true ∨ i = .nop) → t.status = s.status ∧ t.outLen = s.outLen ∧ t.engine = s.engine) ∧
    ((s.status.busy = false ∧ i ≠ .nop) →
      t.status = { busy := true, done := false, result := .none } ∧ t.outLen = 0)

/-- R144: an illegal command sets DONE and RESULT 4 and clears OUT_LEN, is answered OKAY, and changes nothing else;
there is no busy period. -/
def Obligations.IllegalCommandIsTaken : Prop :=
  ∀ (s : State) (w : Word) (rest : List Event),
    s.env = .host (.write 0x00000010#32 w) :: rest → s.rstN = true → s.status.busy = false →
    w ≠ 0x00000000#32 → w ≠ 0x00000001#32 → w ≠ 0x00000002#32 →
    step s = .next
      { s with
        env := rest
        status := { busy := false, done := true, result := .illegalCommand }
        outLen := 0
        bus := some (.write .okay) }

/-- R145: a CMD write of any word while BUSY is answered SLVERR and has no effect, and the running command completes as if
the write had not happened. That the completion leaves the write's answer on the bus is the model's choice (log entry
9). -/
def Obligations.CmdWriteWhileBusy : Prop :=
  ∀ (s : State) (w : Word) (rest : List Event),
    s.env = .host (.write 0x00000010#32 w) :: rest → s.rstN = true → s.status.busy = true →
    step s = .next { s with env := rest, bus := some (.write .slverr) } ∧
    State.complete { s with env := rest, bus := some (.write .slverr) } =
      { (State.complete { s with env := rest }) with bus := some (.write .slverr) }

/-! ## The completion -/

/-- R146, R73: the engine's step, at its turn in the environment's events or with nothing waiting. It is enabled when
BUSY = 1: one step publishes OBUF, OUT_LEN, RESULT, DONE and BUSY together, with every byte of OBUF outside the output
UNSPEC; while BUSY = 0 nothing changes (R289). Four clauses are the model's choice: that with nothing waiting the step is
the engine's, so that a running command completes (log entry 2, the weak fairness of R320 and 93 T1), that the engine does
not move while rst_n is low (log entry 4, from R322), that UNSPEC is a fresh draw (log entry 5, 93 U3 and U4), and that the
last answer stays on the bus (log entry 9). -/
def Obligations.EngineStepCompletes : Prop :=
  ∀ (s : State) (rest : List Event), ((s.env = [] ∧ rest = []) ∨ s.env = .engine :: rest) →
    ((s.rstN = false ∨ s.status.busy = false) → step s = .next { s with env := rest }) ∧
    ((s.rstN = true ∧ s.status.busy = true) → ∃ t out,
      step s = .next t ∧
      (s.engine.phase.isEncoder = true → out = huffEncode s.input ∧ t.status.result = .ok) ∧
      (s.engine.phase.isEncoder = false →
        (huffDecode s.input = .ok out ∧ t.status.result = .ok) ∨
        (out = [] ∧ ∃ c, huffDecode s.input = .error (.containerFormat c) ∧
          t.status.result = .containerFormatError) ∨
        (out = [] ∧ ∃ c, huffDecode s.input = .error (.corrupt c) ∧ t.status.result = .corruptStream)) ∧
      t.status.busy = false ∧ t.status.done = true ∧ t.engine.phase = .idle ∧
      t.outLen = BitVec.ofNat 32 out.length ∧ (∀ j, t.obuf.get? j = out[j]?) ∧ s.obufDraw < t.obufDraw ∧
      t.params = s.params ∧ t.irqEn = s.irqEn ∧ t.inLen = s.inLen ∧ t.ibuf = s.ibuf ∧ t.ibufDraw = s.ibufDraw ∧
      t.rstN = s.rstN ∧ t.bus = s.bus ∧ t.env = rest)

/-- R142 with R146, R71, R78: whatever the host does between acceptance and completion, a COMPRESS ends with RESULT OK and
with the container of the input as it stood at acceptance. That the events wait in a list, and that no step shows a phase
inside the command, is the model's choice (log entries 2 and 8). -/
def Obligations.CompressUnderAnyHostTraffic : Prop :=
  ∀ (s : State) (es rest : List Event),
    s.Inv → s.status.busy = false → s.rstN = true → (∀ e ∈ es, e.isHost = true) →
    ∃ t, stepN (es.length + 2) (s.setEnv (.host (.write 0x00000010#32 0x00000001#32) :: (es ++ .engine :: rest))) =
        .next t ∧
      t.status = { busy := false, done := true, result := .ok } ∧
      t.outLen.toNat = (huffEncode s.input).length ∧ t.output = huffEncode s.input ∧
      (∀ j, t.outLen.toNat ≤ j → t.obuf.get? j = none) ∧
      t.inLen = s.inLen ∧ t.ibuf = s.ibuf ∧ t.engine.phase = .idle ∧ t.env = rest

/-- R143 with R146, R71, R78: whatever the host does between acceptance and completion, a DECOMPRESS ends with what Decode
makes of the input as it stood at acceptance: the bytes, or RESULT 2 or 3 and OUT_LEN 0. That the events wait in a list, and
that no step shows a phase inside the command, is the model's choice (log entries 2 and 8). -/
def Obligations.DecompressUnderAnyHostTraffic : Prop :=
  ∀ (s : State) (es rest : List Event),
    s.Inv → s.status.busy = false → s.rstN = true → (∀ e ∈ es, e.isHost = true) →
    ∃ t, stepN (es.length + 2) (s.setEnv (.host (.write 0x00000010#32 0x00000002#32) :: (es ++ .engine :: rest))) =
        .next t ∧
      t.status.busy = false ∧ t.status.done = true ∧
      (∀ out, huffDecode s.input = .ok out →
        t.status.result = .ok ∧ t.outLen.toNat = out.length ∧ t.output = out) ∧
      (∀ c, huffDecode s.input = .error (.containerFormat c) →
        t.status.result = .containerFormatError ∧ t.outLen = 0) ∧
      (∀ c, huffDecode s.input = .error (.corrupt c) → t.status.result = .corruptStream ∧ t.outLen = 0) ∧
      (∀ j, t.outLen.toNat ≤ j → t.obuf.get? j = none) ∧
      t.inLen = s.inLen ∧ t.ibuf = s.ibuf ∧ t.engine.phase = .idle ∧ t.env = rest

/-- R275: what an error of Decode does. That UNSPEC is a fresh draw is the model's form of it (log entry 5, 93 U4). -/
def Obligations.ErrorEndsTheCommand : Prop :=
  ∀ (s : State) (e : DecodeFault),
    s.rstN = true → s.status.busy = true → s.engine.phase = .decParse → huffDecode s.input = .error e →
    s.engineTurn.outLen = 0 ∧ s.engineTurn.status.done = true ∧ s.engineTurn.status.busy = false ∧
    s.engineTurn.engine.phase = .idle ∧ (∀ j, s.engineTurn.obuf.get? j = none) ∧
    s.obufDraw < s.engineTurn.obufDraw ∧
    (∀ c, e = .containerFormat c → s.engineTurn.status.word = 0x00000022#32) ∧
    (∀ c, e = .corrupt c → s.engineTurn.status.word = 0x00000032#32) ∧
    s.engineTurn.inLen = s.inLen ∧ s.engineTurn.irqEn = s.irqEn ∧ s.engineTurn.ibuf = s.ibuf

/-- R320: a completion does come. While a command runs and the environment holds no reset, some step within the waiting
events is the completion (the schedule's form is the model's choice, log entry 2). -/
def Obligations.CompletionComes : Prop :=
  ∀ s : State, s.rstN = true → s.status.busy = true → (∀ e ∈ s.env, e.isRst = false) →
    ∃ k t u, k ≤ s.env.length ∧ stepN k s = .next t ∧ t.status.busy = true ∧ t.input = s.input ∧
      t.engine = s.engine ∧ step t = .next u ∧ u = (t.setEnv u.env).complete ∧
      u.status.busy = false ∧ u.status.done = true

/-- R42, R188: the outcome of a command is a function of the command and its input bytes alone. -/
def Obligations.OutcomeDependsOnInputOnly : Prop :=
  ∀ s t : State, s.engine.phase.isEncoder = t.engine.phase.isEncoder → s.input = t.input →
    s.complete.outcome = t.complete.outcome

/-- R42: the engine's working tables are unobservable. Two states that differ only in them take the same step, and differ
only in them after it. -/
def Obligations.WorkingTablesUnobservable : Prop :=
  ∀ (s t : State) (g : Engine), g.phase = s.engine.phase → step s = .next t →
    ∃ u, step (s.setEngine g) = .next u ∧ u.setEngine t.engine = t ∧ u.engine.phase = t.engine.phase

/-- R36 to R41, R171, R177, R180, R182, R232, R234: what a command leaves in the working registers and trees, at their
stated widths and without loss; ACC and NACC hold the code bits that fill no byte. That they keep these values between
commands is the model's choice (93 U2, log entry 7). -/
def Obligations.WorkingRegistersAfterCommand : Prop :=
  ∀ s : State, s.Inv → s.rstN = true → s.status.busy = true →
    (s.engine.phase = .encCount → s.engineTurn.engine.freq.map BitVec.toNat = freqOf s.input) ∧
    (s.engine.phase = .encCount → s.input ≠ [] →
      s.engineTurn.engine.tree.map EncNode.load = buildTree (freqOf s.input) (inputSyms s.input) ∧
      s.engineTurn.engine.len.map BitVec.toNat = inputLengths s.input ∧
      s.engineTurn.engine.code.map BitVec.toNat = inputCodes s.input ∧
      s.engineTurn.engine.nacc.toNat =
        (streamBits (inputLengths s.input) (inputCodes s.input) s.input).length % 8 ∧
      s.engineTurn.engine.acc.toNat < 2 ^ s.engineTurn.engine.nacc.toNat ∧
      bitsMsb s.engineTurn.engine.nacc.toNat s.engineTurn.engine.acc.toNat =
        (streamBits (inputLengths s.input) (inputCodes s.input) s.input).drop
          (8 * ((streamBits (inputLengths s.input) (inputCodes s.input) s.input).length / 8)) ∧
      s.engineTurn.engine.ipos = s.inLen ∧ s.engineTurn.engine.opos = s.engineTurn.outLen) ∧
    (s.engine.phase = .decParse → ∀ n len bits, parse s.input = .ok (.stream n len bits) →
      s.engineTurn.engine.len.map BitVec.toNat = len ∧
      s.engineTurn.engine.code.map BitVec.toNat = canonCodes len ∧
      s.engineTurn.engine.dtree.map DecNode.load = buildTrie len (canonCodes len) ∧
      s.engineTurn.engine.bpos.toNat = bits.length - (unpackStream n len bits).left ∧
      s.engineTurn.engine.nout.toNat = (unpackStream n len bits).emitted.length)

/-! ## Reset and the invariant -/

/-- R46, R311: what the host reads after reset, for every legal pair of sizes, and the buffers UNSPEC. -/
def Obligations.ResetState : Prop :=
  ∀ (p : Params) (draw : Nat) (env : List Event), p.legal = true →
    (State.afterReset p draw env).readAnswer 0x00000000#32 = .read .okay 0x48464301#32 ∧
    (State.afterReset p draw env).readAnswer 0x00000004#32 = .read .okay (BitVec.ofNat 32 p.ibufSize) ∧
    (State.afterReset p draw env).readAnswer 0x00000008#32 = .read .okay (BitVec.ofNat 32 p.obufSize) ∧
    (State.afterReset p draw env).readAnswer 0x0000000C#32 = .read .okay 0x00000000#32 ∧
    (State.afterReset p draw env).readAnswer 0x00000010#32 = .read .okay 0x00000000#32 ∧
    (State.afterReset p draw env).readAnswer 0x00000014#32 = .read .okay 0x00000000#32 ∧
    (State.afterReset p draw env).readAnswer 0x00000018#32 = .read .okay 0x00000000#32 ∧
    (State.afterReset p draw env).readAnswer 0x0000001C#32 = .read .okay 0x00000000#32 ∧
    (State.afterReset p draw env).irq = false ∧
    (State.afterReset p draw env).engine.phase = .idle ∧
    (∀ i, (State.afterReset p draw env).ibuf.get? i = none ∧ (State.afterReset p draw env).obuf.get? i = none)

/-- R310, R322, R46, R47: a reset, however many engine turns pass while the pin is low, puts any state, a busy one too, in
the reset state; no completion occurs, and both buffers are UNSPEC. Beyond the rules, equality with the model's reset state
says what is the model's choice: the engine stands still while rst_n is low (log entry 4), the draw is the next number (log
entry 5), the working tables are zero (log entry 6) and no answer is on the bus (log entry 9). -/
def Obligations.ResetCancels : Prop :=
  ∀ (s : State) (n : Nat) (rest : List Event),
    s.env = .rst false :: (List.replicate n .engine ++ .rst true :: rest) →
    stepN (n + 2) s = .next (State.afterReset s.params (s.obufDraw + 1) rest)

/-- The invariant holds after reset, for every legal pair of sizes, and the reset value of the model is one of them. The
sizes and the draws of State.reset, and the zero tables, are the model's choice (log entries 1, 5 and 6). -/
def Obligations.ResetMeetsInvariant : Prop :=
  (∀ (p : Params) (draw : Nat) (env : List Event), p.legal = true →
    (State.afterReset p draw env).Inv ∧ (State.afterReset p draw env).OutputInside) ∧
  State.reset.Inv ∧ State.reset.OutputInside

/-- Every step keeps the invariant: the phase follows BUSY (R35), IN_LEN stays legal (R30), OUT_LEN and STATUS agree
(R26 to R28, R31), the buffers keep their form and IBUF its bounds (R33). Two clauses rest on the model's choices: that a
running command stands at its first phase, ENC_COUNT or DEC_PARSE (`running`: R142 and R143 put it there, and log entry 8,
from R7 and R146, keeps it there), and that OBUF's draw is the latest (`draws`: log entry 5). -/
def Obligations.StepKeepsInvariant : Prop :=
  ∀ s t : State, s.Inv → step s = .next t → t.Inv

/-- Every step keeps the output inside OBUF (R72, R187, R238). The premise Inv holds the model's choices of log entries 5 and
8, as StepKeepsInvariant says. -/
def Obligations.StepKeepsOutputInside : Prop :=
  ∀ s t : State, s.Inv → s.OutputInside → step s = .next t → t.OutputInside

/-- R7, R70: with rst_n high a step whose next event is a host transaction is that transaction, at the state without the
event, and it answers a next state; with rst_n low it has no meaning (R313, 93 T3) and the model refuses it (log entry
4). -/
def Obligations.HostInResetIsRefused : Prop :=
  ∀ (s : State) (x : Transaction) (rest : List Event), s.env = .host x :: rest →
    (s.rstN = false → step s = .refused .hostAccessInReset) ∧
    (s.rstN = true → step s = (s.setEnv rest).transact x ∧ ∃ t, step s = .next t)

/-! ## Registers and the bus -/

/-- R20 to R31, R62, R151: the register map as a host reads it, in any state. -/
def Obligations.RegisterReads : Prop :=
  ∀ s : State,
    s.readAnswer 0x00000000#32 = .read .okay 0x48464301#32 ∧
    s.readAnswer 0x00000004#32 = .read .okay (BitVec.ofNat 32 s.params.ibufSize) ∧
    s.readAnswer 0x00000008#32 = .read .okay (BitVec.ofNat 32 s.params.obufSize) ∧
    s.readAnswer 0x0000000C#32 = .read .okay (if s.irqEn then 0x00000001#32 else 0x00000000#32) ∧
    s.readAnswer 0x00000010#32 = .read .okay 0x00000000#32 ∧
    s.readAnswer 0x00000014#32 = .read .okay s.status.word ∧
    s.readAnswer 0x00000018#32 = .read .okay s.inLen ∧
    s.readAnswer 0x0000001C#32 = .read .okay s.outLen

/-- R95: the STATUS word, and the values a host sees. -/
def Obligations.StatusWordValues : Prop :=
  (∀ t : Status, t.word = (t.result.code.setWidth 32 <<< 4) ||| ((BitVec.ofBool t.done).setWidth 32 <<< 1) |||
    (BitVec.ofBool t.busy).setWidth 32) ∧
  (∀ p draw env, (State.afterReset p draw env).status.word = 0x00000000#32) ∧
  ∀ s : State, s.Inv →
    (s.status.busy = true → s.status.word = 0x00000001#32) ∧
    (s.status.busy = false → s.status.result = .none → s.status.word = 0x00000000#32) ∧
    (s.status.busy = false → s.status.result = .ok →
      s.status.word = if s.status.done then 0x00000012#32 else 0x00000010#32) ∧
    (s.status.busy = false → s.status.result = .containerFormatError →
      s.status.word = if s.status.done then 0x00000022#32 else 0x00000020#32) ∧
    (s.status.busy = false → s.status.result = .corruptStream →
      s.status.word = if s.status.done then 0x00000032#32 else 0x00000030#32) ∧
    (s.status.busy = false → s.status.result = .illegalCommand →
      s.status.word = if s.status.done then 0x00000042#32 else 0x00000040#32)

/-- R32, R281, R282: irq is DONE AND IRQ_EN; every completion and every illegal command raises it while enabled, a
command's acceptance lowers it. -/
def Obligations.IrqFollowsDone : Prop :=
  (∀ s : State, s.irq = (s.status.word.getLsbD 1 && (s.readReg .ctrl).getLsbD 0)) ∧
  (∀ p draw env, (State.afterReset p draw env).irq = false) ∧
  (∀ s : State, s.complete.irq = s.irqEn) ∧
  (∀ (s : State) (w : Word) (e : DecodeError), s.status.busy = false → decode w = .error e →
    ∃ t, writeCmd w s = .next t ∧ t.irq = s.irqEn) ∧
  ∀ (s : State) (i : Instr), s.status.busy = false → i ≠ .nop → ∃ t, exec i s = .next t ∧ t.irq = false

/-- R147: a write to CTRL, in any state. -/
def Obligations.CtrlWrite : Prop :=
  ∀ (s : State) (w : Word), ∃ t, s.transact (.write 0x0000000C#32 w) = .next t ∧
    t = { s with irqEn := w.getLsbD 0, bus := some (.write .okay) } ∧
    t.irq = (s.status.done && w.getLsbD 0)

/-- R148: a write to STATUS, in any state. -/
def Obligations.StatusWrite : Prop :=
  ∀ (s : State) (w : Word),
    (w.getLsbD 1 = true → s.transact (.write 0x00000014#32 w) =
      .next { s with status := { s.status with done := false }, bus := some (.write .okay) }) ∧
    (w.getLsbD 1 = false → s.transact (.write 0x00000014#32 w) = .next { s with bus := some (.write .okay) }) ∧
    (s.Inv → s.status.busy = true →
      s.transact (.write 0x00000014#32 w) = .next { s with bus := some (.write .okay) })

/-- R149: a write to IN_LEN. -/
def Obligations.InLenWrite : Prop :=
  ∀ (s : State) (w : Word),
    ((s.status.busy = true ∨ s.params.ibufSize < w.toNat) →
      s.transact (.write 0x00000018#32 w) = .next { s with bus := some (.write .slverr) }) ∧
    ((s.status.busy = false ∧ w.toNat ≤ s.params.ibufSize) →
      s.transact (.write 0x00000018#32 w) = .next { s with inLen := w, bus := some (.write .okay) })

/-- R150: a write to a read-only location. -/
def Obligations.ReadOnlyWrites : Prop :=
  ∀ (s : State) (w : Word), s.params.legal = true →
    (∀ a : Word, (a = 0x00000000#32 ∨ a = 0x00000004#32 ∨ a = 0x00000008#32 ∨ a = 0x0000001C#32) →
      s.transact (.write a w) = .next { s with bus := some (.write .okay) }) ∧
    ∀ (a : Word) (k : Nat), a.toNat = 0x80000000 + 4 * k → 4 * k < s.params.obufSize →
      (s.status.busy = false → s.transact (.write a w) = .next { s with bus := some (.write .okay) }) ∧
      (s.status.busy = true → s.transact (.write a w) = .next { s with bus := some (.write .slverr) })

/-- R152: a write to a mapped IBUF window word. -/
def Obligations.IbufWindowWrite : Prop :=
  ∀ (s : State) (a w : Word) (k : Nat), s.params.legal = true →
    a.toNat = 0x40000000 + 4 * k → 4 * k < s.params.ibufSize →
    (s.status.busy = true → s.transact (.write a w) = .next { s with bus := some (.write .slverr) }) ∧
    (s.status.busy = false → ∃ t, s.transact (.write a w) = .next t ∧
      t = { s with ibuf := t.ibuf, bus := some (.write .okay) } ∧
      (t.ibufByte (4 * k)).toNat = w.toNat % 2 ^ 8 ∧
      (t.ibufByte (4 * k + 1)).toNat = w.toNat / 2 ^ 8 % 2 ^ 8 ∧
      (t.ibufByte (4 * k + 2)).toNat = w.toNat / 2 ^ 16 % 2 ^ 8 ∧
      (t.ibufByte (4 * k + 3)).toNat = w.toNat / 2 ^ 24 % 2 ^ 8 ∧
      ∀ i, i < 4 * k ∨ 4 * k + 4 ≤ i → t.ibufByte i = s.ibufByte i)

/-- R153: a read of a mapped IBUF or OBUF window word. -/
def Obligations.WindowRead : Prop :=
  ∀ (s : State) (a : Word) (k : Nat), s.params.legal = true →
    (a.toNat = 0x40000000 + 4 * k → 4 * k < s.params.ibufSize →
      (s.status.busy = true → s.transact (.read a) = .next { s with bus := some (.read .slverr 0#32) }) ∧
      (s.status.busy = false → ∃ d : Word, s.transact (.read a) = .next { s with bus := some (.read .okay d) } ∧
        d.toNat = (s.ibufByte (4 * k)).toNat + 2 ^ 8 * (s.ibufByte (4 * k + 1)).toNat +
          2 ^ 16 * (s.ibufByte (4 * k + 2)).toNat + 2 ^ 24 * (s.ibufByte (4 * k + 3)).toNat)) ∧
    (a.toNat = 0x80000000 + 4 * k → 4 * k < s.params.obufSize →
      (s.status.busy = true → s.transact (.read a) = .next { s with bus := some (.read .slverr 0#32) }) ∧
      (s.status.busy = false → ∃ d : Word, s.transact (.read a) = .next { s with bus := some (.read .okay d) } ∧
        d.toNat = (s.obufByte (4 * k)).toNat + 2 ^ 8 * (s.obufByte (4 * k + 1)).toNat +
          2 ^ 16 * (s.obufByte (4 * k + 2)).toNat + 2 ^ 24 * (s.obufByte (4 * k + 3)).toNat))

/-- R63, R75: a host read returns the value written by the last write to that word, and a write changes no other word. For
a word with UNSPEC bytes, that the other word reads the same again is the model's choice: such a byte stays fixed until it
is written (log entry 5, 93 U1). -/
def Obligations.WriteThenRead : Prop :=
  ∀ (s t : State) (a w : Word), s.params.legal = true → s.status.busy = false → a.toNat % 4 = 0 →
    0x40000000 ≤ a.toNat → a.toNat < 0x40000000 + s.params.ibufSize → s.transact (.write a w) = .next t →
    t.readAnswer a = .read .okay w ∧ ∀ b : Word, b ≠ a → t.readAnswer b = s.readAnswer b

/-- R68: a read changes no state, and reading again returns the same word. That this holds of UNSPEC bytes too, which R68
lets a model draw afresh, is the model's choice (log entry 5, 93 U1). -/
def Obligations.ReadsChangeNothing : Prop :=
  ∀ (s : State) (a b : Word),
    (∃ d, s.transact (.read a) = .next { s with bus := some d } ∧ s.readAnswer a = d) ∧
    ∀ t, s.transact (.read b) = .next t → t.readAnswer a = s.readAnswer a

/-- R154 (with R65, R66, R67, R71, R145, R149): exactly when a transaction is answered SLVERR, and that it then changes
nothing and reads 0. -/
def Obligations.SlverrExactly : Prop :=
  ∀ (s : State) (x : Transaction), s.params.legal = true →
    (s.rejects x → s.transact x = .next { s with bus := some x.slverr }) ∧
    (¬ s.rejects x → ∃ t a, s.transact x = .next t ∧ t.bus = some a ∧ a.isSlverr = false)

/-- R71: the windows are locked while BUSY; register accesses are not, except writes to CMD and IN_LEN. -/
def Obligations.BusyLockout : Prop :=
  ∀ s : State, s.params.legal = true → s.status.busy = true →
    (∀ a w : Word, a.toNat % 4 = 0 → inWindow s.params a.toNat →
      s.transact (.read a) = .next { s with bus := some (.read .slverr 0#32) } ∧
      s.transact (.write a w) = .next { s with bus := some (.write .slverr) }) ∧
    (∀ r : Reg, ∃ d, s.transact (.read r.addr) = .next { s with bus := some (.read .okay d) }) ∧
    (∀ (r : Reg) (w : Word), r ≠ .cmd → r ≠ .inLen →
      ∃ t, s.transact (.write r.addr w) = .next t ∧ t.bus = some (.write .okay)) ∧
    ∀ w : Word, s.transact (.write 0x00000010#32 w) = .next { s with bus := some (.write .slverr) } ∧
      s.transact (.write 0x00000018#32 w) = .next { s with bus := some (.write .slverr) }

/-- R24, R26 to R28, R31: what changes the registers IRQ_EN, BUSY, DONE, RESULT and OUT_LEN in a step; the sizes never change
(R22, R23). That the engine has its turn when nothing waits, and that a reset acts when rst_n rises, are the forms of log
entries 2 and 4. -/
def Obligations.BusyDoneChangeOnlySo : Prop :=
  ∀ s t : State, step s = .next t →
    (s.status.busy = false → t.status.busy = true →
      ∃ w rest, s.env = .host (.write 0x00000010#32 w) :: rest ∧ (w = 0x00000001#32 ∨ w = 0x00000002#32)) ∧
    (s.status.busy = true → t.status.busy = false →
      s.env = [] ∨ (∃ rest, s.env = .engine :: rest) ∨ ∃ rest, s.env = .rst true :: rest ∧ s.rstN = false) ∧
    (s.status.done = false → t.status.done = true →
      (s.status.busy = true ∧ (s.env = [] ∨ ∃ rest, s.env = .engine :: rest)) ∨
      (s.status.busy = false ∧ ∃ w rest e, s.env = .host (.write 0x00000010#32 w) :: rest ∧ decode w = .error e)) ∧
    (s.status.done = true → t.status.done = false →
      (∃ w rest, s.env = .host (.write 0x00000014#32 w) :: rest ∧ w.getLsbD 1 = true) ∨
      (∃ w rest, s.env = .host (.write 0x00000010#32 w) :: rest ∧ (w = 0x00000001#32 ∨ w = 0x00000002#32)) ∨
      ∃ rest, s.env = .rst true :: rest ∧ s.rstN = false) ∧
    ((t.status.result ≠ s.status.result ∨ t.outLen ≠ s.outLen) →
      (s.status.busy = true ∧ (s.env = [] ∨ ∃ rest, s.env = .engine :: rest)) ∨
      (s.status.busy = false ∧ ∃ w rest, s.env = .host (.write 0x00000010#32 w) :: rest ∧ w ≠ 0x00000000#32) ∨
      ∃ rest, s.env = .rst true :: rest ∧ s.rstN = false) ∧
    (t.irqEn ≠ s.irqEn →
      (∃ w rest, s.env = .host (.write 0x0000000C#32 w) :: rest ∧ t.irqEn = w.getLsbD 0) ∨
      ∃ rest, s.env = .rst true :: rest ∧ s.rstN = false) ∧
    t.params = s.params

/-- R30, R33, R34, R72: what changes IN_LEN, IBUF and OBUF in a step. The engine never writes IBUF or IN_LEN, and the host
cannot write OBUF. The draw of a buffer says what its unwritten bytes read as (log entry 5): IBUF's changes by a reset
alone. That the engine has its turn when nothing waits, and that a reset acts when rst_n rises, are the forms of log entries
2 and 4. -/
def Obligations.BuffersChangeOnlySo : Prop :=
  ∀ s t : State, step s = .next t →
    (t.inLen ≠ s.inLen →
      (s.status.busy = false ∧ ∃ rest, s.env = .host (.write 0x00000018#32 t.inLen) :: rest) ∨
      ∃ rest, s.env = .rst true :: rest ∧ s.rstN = false) ∧
    (t.ibuf ≠ s.ibuf →
      (s.status.busy = false ∧ ∃ a w rest, s.env = .host (.write a w) :: rest ∧ 0x40000000 ≤ a.toNat ∧
        a.toNat < 0x40000000 + s.params.ibufSize) ∨
      ∃ rest, s.env = .rst true :: rest ∧ s.rstN = false) ∧
    (t.ibufDraw ≠ s.ibufDraw → ∃ rest, s.env = .rst true :: rest ∧ s.rstN = false) ∧
    (∀ i, t.ibufByte i ≠ s.ibufByte i →
      (s.status.busy = false ∧ ∃ a w rest, s.env = .host (.write a w) :: rest ∧ 0x40000000 ≤ a.toNat ∧
        a.toNat < 0x40000000 + s.params.ibufSize ∧ a.toNat ≤ 0x40000000 + i ∧ 0x40000000 + i < a.toNat + 4) ∨
      ∃ rest, s.env = .rst true :: rest ∧ s.rstN = false) ∧
    ((t.obuf ≠ s.obuf ∨ t.obufDraw ≠ s.obufDraw) →
      (s.status.busy = true ∧ (s.env = [] ∨ ∃ rest, s.env = .engine :: rest)) ∨
      ∃ rest, s.env = .rst true :: rest ∧ s.rstN = false)

/-! ## The encoder -/

/-- R173: the empty input. No tree, code table or bitstream is built. -/
def Obligations.EmptyInputContainer : Prop :=
  huffEncode [] = [0x48#8, 0x46#8, 0x43#8, 0x01#8, 0x00#8, 0x00#8, 0x00#8, 0x00#8] ∧
  ∀ g : Engine, (g.runEncode []).tree = g.tree ∧ (g.runEncode []).len = g.len ∧ (g.runEncode []).code = g.code ∧
    (g.runEncode []).acc = g.acc ∧ (g.runEncode []).nacc = g.nacc

/-- R171: FREQ[s] is the number of occurrences of s, the counts sum to N, and each fits its counter. -/
def Obligations.CountIsOccurrences : Prop :=
  ∀ inp : List Byte,
    (∀ s, tableAt (freqOf inp) s = inp.countP fun b => b.toNat = s) ∧
    (freqOf inp).sum = inp.length ∧
    (inp.length ≤ 2 ^ 27 → ∀ s, tableAt (freqOf inp) s ≤ inp.length ∧ tableAt (freqOf inp) s < 2 ^ 32) ∧
    (inp = [] → ∀ s, tableAt (freqOf inp) s = 0)

/-- R172: P lists the present symbols in ascending order, and 1 ≤ S ≤ 256 when N ≥ 1. -/
def Obligations.PresentSymbolsAscending : Prop :=
  ∀ inp : List Byte,
    (inputSyms inp).Pairwise (· < ·) ∧
    (∀ s, s ∈ inputSyms inp ↔ ∃ b ∈ inp, b.toNat = s) ∧
    (∀ s, s ∈ inputSyms inp ↔ (s < 256 ∧ 0 < tableAt (freqOf inp) s)) ∧
    (1 ≤ inp.length → 1 ≤ (inputSyms inp).length ∧ (inputSyms inp).length ≤ 256)

/-- R175 to R177: the tree of S ≥ 2 symbols. Leaves 0..S-1 carry the symbols of P; each of the S - 1 internal nodes merges
the first two unmerged nodes in the order of R176, the first on the left; the root's weight is N. -/
def Obligations.MergeLoopOrder : Prop :=
  ∀ inp : List Byte, 2 ≤ (inputSyms inp).length →
    ∀ tr : List HuffNode, tr = buildTree (freqOf inp) (inputSyms inp) →
      tr.length = 2 * (inputSyms inp).length - 1 ∧
      (∀ n s : Nat, (inputSyms inp)[n]? = some s → tr[n]? = some (HuffNode.leaf (tableAt (freqOf inp) s) s)) ∧
      (∀ n : Nat, (inputSyms inp).length ≤ n → n < tr.length → ∃ a b : Nat,
        tr[n]? = some (HuffNode.inner (weightAt tr a + weightAt tr b) a b) ∧
        unmergedBefore tr n a ∧ unmergedBefore tr n b ∧
        comesBefore (weightAt tr a, a) (weightAt tr b, b) = true ∧
        ∀ c, unmergedBefore tr n c → c ≠ a → c ≠ b → comesBefore (weightAt tr b, b) (weightAt tr c, c) = true) ∧
      weightAt tr (tr.length - 1) = inp.length

/-- R186: every value of the encoder fits the register that holds it. -/
def Obligations.EncoderWidths : Prop :=
  ∀ inp : List Byte, inp.length ≤ 2 ^ 27 →
    (∀ n ∈ buildTree (freqOf inp) (inputSyms inp), n.weight ≤ inp.length) ∧
    (∀ w l r, HuffNode.inner w l r ∈ buildTree (freqOf inp) (inputSyms inp) → l < 511 ∧ r < 511) ∧
    (buildTree (freqOf inp) (inputSyms inp)).length ≤ 511 ∧
    (2 ≤ (inputSyms inp).length → ∀ s, tableAt (inputLengths inp) s ≤ (inputSyms inp).length - 1) ∧
    (∀ s, tableAt (inputLengths inp) s ≤ 255 ∧
      (0 < tableAt (inputLengths inp) s → tableAt (inputCodes inp) s < 2 ^ tableAt (inputLengths inp) s))

/-- R189: the length set the encoder writes is legal, {1} for S = 1 and the Kraft equality for S ≥ 2, and the canonical
codes of the present symbols are prefix-free. -/
def Obligations.EncoderLengthsLegal : Prop :=
  ∀ inp : List Byte, inp ≠ [] →
    legalLengths (inputLengths inp) = true ∧
    (∀ s, s ∈ inputSyms inp ↔ 0 < tableAt (inputLengths inp) s) ∧
    ((inputSyms inp).length = 1 → presentLengths (inputLengths inp) = [1]) ∧
    (2 ≤ (inputSyms inp).length → kraft (inputLengths inp) = 2 ^ 255) ∧
    ∀ s t, s ∈ inputSyms inp → t ∈ inputSyms inp → s ≠ t →
      ¬ (codeBits (inputLengths inp) (inputCodes inp) s <+: codeBits (inputLengths inp) (inputCodes inp) t)

/-- R109: for a legal length set CanonCodes gives codes below 2^LEN, no one a prefix of another. -/
def Obligations.CanonicalCodesPrefixFree : Prop :=
  ∀ len : List Nat, legalLengths len = true →
    (∀ s, 0 < tableAt len s → tableAt (canonCodes len) s < 2 ^ tableAt len s) ∧
    (∀ s t, 0 < tableAt len s → 0 < tableAt len t → s ≠ t →
      ¬ (codeBits len (canonCodes len) s <+: codeBits len (canonCodes len) t)) ∧
    (presentLengths len = [1] → ∀ s, 0 < tableAt len s → tableAt (canonCodes len) s = 0)

/-- R107, its prose: codes of equal length are consecutive in ascending symbol order, and a code is below the prefixes of
all longer codes. -/
def Obligations.CanonicalCodesConsecutive : Prop :=
  ∀ len : List Nat, legalLengths len = true →
    ∀ s t, 0 < tableAt len s → 0 < tableAt len t →
      (s < t → tableAt len s = tableAt len t → (∀ u, s < u → u < t → tableAt len u ≠ tableAt len s) →
        tableAt (canonCodes len) t = tableAt (canonCodes len) s + 1) ∧
      (tableAt len s < tableAt len t →
        tableAt (canonCodes len) s < tableAt (canonCodes len) t / 2 ^ (tableAt len t - tableAt len s))

/-- R105, R106: bit p of a byte sequence is bit 7 - (p mod 8) of byte p div 8; a code goes most significant bit first. -/
def Obligations.BitOrder : Prop :=
  (∀ (y : List Byte) (p : Nat), p < 8 * y.length →
    (bytesBits y)[p]? = some (bitAt y p) ∧ ∃ b, y[p / 8]? = some b ∧ bitAt y p = b.getLsbD (7 - p % 8)) ∧
  ∀ (len code : List Nat) (s k : Nat), k < tableAt len s →
    (codeBits len code s).length = tableAt len s ∧
    (codeBits len code s)[k]? = some ((tableAt code s).testBit (tableAt len s - 1 - k))

/-- R181, R182: the packed body is the code bit string followed by PAD zeros, cut into bytes. -/
def Obligations.PackedBodyIsTheBitString : Prop :=
  ∀ bits : List Bool,
    8 * (packBits bits 0 0).length = bits.length + padCount bits.length ∧ padCount bits.length ≤ 7 ∧
    bytesBits (packBits bits 0 0) = bits ++ List.replicate (padCount bits.length) false ∧
    (packRest bits 0 0).2 = bits.length % 8 ∧
    (0 < (packRest bits 0 0).2 → 8 - (packRest bits 0 0).2 = padCount bits.length)

/-- R184: the length of the container is what a completed COMPRESS puts in OUT_LEN. -/
def Obligations.CompressResultLength : Prop :=
  ∀ inp : List Byte,
    (inp = [] → (huffEncode inp).length = 8) ∧
    (inp ≠ [] → (huffEncode inp).length =
      10 + 2 * (inputSyms inp).length + (totalBits (freqOf inp) (inputLengths inp) (inputSyms inp) + 7) / 8) ∧
    ∀ s : State, s.engine.phase.isEncoder = true → s.input = inp →
      s.complete.outLen = BitVec.ofNat 32 (huffEncode inp).length ∧ s.complete.status.result = .ok

/-- R190: one distinct symbol gives a bitstream of exactly N zero bits. -/
def Obligations.SingleSymbolSize : Prop :=
  ∀ (b : Byte) (n : Nat), 1 ≤ n → n < 2 ^ 32 →
    totalBits (freqOf (List.replicate n b)) (inputLengths (List.replicate n b)) (inputSyms (List.replicate n b)) = n ∧
    streamBits (inputLengths (List.replicate n b)) (inputCodes (List.replicate n b)) (List.replicate n b) =
      List.replicate n false ∧
    huffEncode (List.replicate n b) =
      [0x48#8, 0x46#8, 0x43#8, 0x01#8] ++ be32 n ++ [BitVec.ofNat 8 ((8 - n % 8) % 8), 0x00#8, b, 0x01#8] ++
        List.replicate ((n + 7) / 8) 0x00#8

/-- R187: T ≤ 8 N, hence B ≤ N and the container fits OBUF. -/
def Obligations.EncodeBound : Prop :=
  ∀ (p : Params) (inp : List Byte), p.legal = true → inp.length ≤ p.ibufSize →
    totalBits (freqOf inp) (inputLengths inp) (inputSyms inp) ≤ 8 * inp.length ∧
    (packBits (streamBits (inputLengths inp) (inputCodes inp) inp) 0 0).length ≤ inp.length ∧
    (huffEncode inp).length ≤ 522 + inp.length ∧ 522 + inp.length ≤ p.obufSize ∧
    ((inputSyms inp).length = 1 →
      totalBits (freqOf inp) (inputLengths inp) (inputSyms inp) = inp.length)

/-! ## The decoder -/

/-- R232, R110: for a legal length set the decoder tree is the trie of the codes: a bit string leads to the leaf of s
exactly when it is the code of s. It is full for S ≥ 2, and a root with a left leaf only for S = 1. -/
def Obligations.DecoderTreeIsTheCodeTrie : Prop :=
  ∀ len : List Nat, legalLengths len = true → ∀ tr : List TrieNode, tr = buildTrie len (canonCodes len) →
    (∀ bits s, (∃ j, descend tr bits = some j ∧ leafSym tr j = some s) ↔
      (0 < tableAt len s ∧ bits = codeBits len (canonCodes len) s)) ∧
    (2 ≤ (presentLengths len).length → tr.length = 2 * (presentLengths len).length - 1 ∧
      ∀ l r, TrieNode.inner l r ∈ tr → l.isSome = true ∧ r.isSome = true) ∧
    ((presentLengths len).length = 1 → tr.length = 2 ∧ childOf tr 0 true = none) ∧
    tr.length ≤ 511

/-- R277: which error a DECOMPRESS reports. ContainerFormatError exactly when the length or the tag is wrong; otherwise OK
exactly when every check of R272 passes; otherwise CorruptStream, the only other class. -/
def Obligations.DecodeErrorClass : Prop :=
  ∀ x : List Byte,
    ((∃ c, huffDecode x = .error (.containerFormat c)) ↔
      (x.length < 8 ∨ x.take 4 ≠ [0x48#8, 0x46#8, 0x43#8, 0x01#8] ∨
        (1 ≤ origLen x ∧ (x.length < 10 ∨ x.length < 10 + 2 * symCount x)))) ∧
    ((∃ out, huffDecode x = .ok out) ↔
      (¬ (∃ c, huffDecode x = .error (.containerFormat c)) ∧ (origLen x = 0 → x.length = 8) ∧
        (1 ≤ origLen x →
          padField x ≤ 7 ∧ (∀ e ∈ symEntries x, e.2 ≠ 0) ∧ (symEntries x).Pairwise (fun d e => d.1 < e.1) ∧
          completeLengths (lenTable (symEntries x)) (symCount x) = true ∧
          padField x ≤ 8 * (bodyBytes x).length ∧
          (unpackStream (origLen x) (lenTable (symEntries x))
            ((bytesBits (bodyBytes x)).take (8 * (bodyBytes x).length - padField x))).stop = none))) ∧
    ((∃ c, huffDecode x = .error (.corrupt c)) ↔
      (¬ (∃ c, huffDecode x = .error (.containerFormat c)) ∧ ¬ (∃ out, huffDecode x = .ok out)))

/-- R238, R234, R235, R237: every emitted symbol consumes at least one bit, so no write leaves OBUF, whatever ORIG_LEN
claims; a claim above the bits available never succeeds; success means exactly N symbols and every bit consumed. -/
def Obligations.DecodeBound : Prop :=
  ∀ (p : Params) (x : List Byte) (n : Nat) (len : List Nat) (bits : List Bool),
    p.legal = true → x.length ≤ p.ibufSize → parse x = .ok (.stream n len bits) →
    (unpackStream n len bits).emitted.length ≤ n ∧
    (unpackStream n len bits).left ≤ bits.length ∧
    (unpackStream n len bits).emitted.length ≤ bits.length - (unpackStream n len bits).left ∧
    bits.length ≤ 8 * (bodyBytes x).length ∧ 8 * (bodyBytes x).length < 8 * p.ibufSize ∧
    8 * p.ibufSize ≤ p.obufSize ∧
    (bits.length < n → (unpackStream n len bits).stop ≠ none) ∧
    ((unpackStream n len bits).stop = none →
      (unpackStream n len bits).emitted.length = n ∧ (unpackStream n len bits).left = 0)

/-- R240: the values of the pad bits are never examined. -/
def Obligations.PadBitsIgnored : Prop :=
  ∀ x y : List Byte, x.length = y.length →
    x.take (10 + 2 * symCount x) = y.take (10 + 2 * symCount x) →
    (bytesBits (bodyBytes x)).take (8 * (bodyBytes x).length - padField x) =
      (bytesBits (bodyBytes y)).take (8 * (bodyBytes x).length - padField x) →
    huffDecode x = huffDecode y

/-- R242: truncation and rejection. -/
def Obligations.TruncationRejected : Prop :=
  (∀ (p : Params) (inp : List Byte), p.legal = true → inp.length ≤ p.ibufSize →
    (inp ≠ [] →
      (∀ k, 10 + 2 * (inputSyms inp).length ≤ k → k < (huffEncode inp).length →
        ∃ c, huffDecode ((huffEncode inp).take k) = .error (.corrupt c)) ∧
      (∀ k, k < 10 + 2 * (inputSyms inp).length →
        ∃ c, huffDecode ((huffEncode inp).take k) = .error (.containerFormat c))) ∧
    (inp = [] → ∀ k, k < (huffEncode inp).length →
      ∃ c, huffDecode ((huffEncode inp).take k) = .error (.containerFormat c))) ∧
  ∀ x : List Byte, (x.length < 8 ∨ x.take 4 ≠ [0x48#8, 0x46#8, 0x43#8, 0x01#8]) →
    ∃ c, huffDecode x = .error (.containerFormat c)

/-- R241: Decode undoes Encode, for every input whose length ORIG_LEN can hold. -/
def Obligations.RoundTrip : Prop :=
  ∀ inp : List Byte, inp.length < 2 ^ 32 → huffDecode (huffEncode inp) = .ok inp

/-- R241 on the block: a DECOMPRESS whose input is the output of a COMPRESS gives back the COMPRESS's input. -/
def Obligations.BlockRoundTrip : Prop :=
  ∀ s u a b : State, s.Inv → u.Inv → s.rstN = true → u.rstN = true →
    s.status.busy = false → u.status.busy = false →
    exec .compress s = .next a → exec .decompress u = .next b → u.input = a.engineTurn.output →
    b.engineTurn.status = { busy := false, done := true, result := .ok } ∧
    b.engineTurn.output = s.input ∧ b.engineTurn.outLen = s.inLen
end

