-- ==== Sys2Proof/Laws/Memory.lean ====
section
/-! SUPPORT. Reading what was written, and the canonical form of a buffer. -/

namespace Sys2Proof.Machine

@[simp] theorem Memory.get?_nil (i : Nat) : Memory.get? [] i = none := rfl

theorem Memory.get?_cons (c : Host.Cell) (m : Memory) (i : Nat) :
    Memory.get? (c :: m) i = if i = c.1 then some c.2 else Memory.get? m i := rfl

/-- Nothing is listed below the first index of a rising list. -/
theorem Memory.get?_none_of_lt (m : Memory) (i : Nat) (h : ∀ c ∈ m, i < c.1) : m.get? i = none := by
  induction m with
  | nil => rfl
  | cons c m ih =>
    have hc : i < c.1 := h c (by simp)
    rw [Memory.get?_cons, if_neg (by omega)]
    exact ih fun d hd => h d (by simp [hd])

/-- Reading the index just written gives the byte written. -/
@[simp] theorem Memory.get?_set_same (m : Memory) (i : Nat) (b : Byte) : (m.set i b).get? i = some b := by
  induction m with
  | nil => simp [Memory.set, Memory.get?_cons]
  | cons c m ih =>
    unfold Memory.set
    split_ifs with h1 h2
    · simp [Memory.get?_cons]
    · simp [Memory.get?_cons]
    · rw [Memory.get?_cons, if_neg h2, ih]

/-- A write leaves every other index alone. -/
theorem Memory.get?_set_other (m : Memory) (i j : Nat) (b : Byte) (h : j ≠ i) : (m.set i b).get? j = m.get? j := by
  induction m with
  | nil => simp [Memory.set, Memory.get?_cons, h]
  | cons c m ih =>
    unfold Memory.set
    split_ifs with h1 h2
    · rw [Memory.get?_cons]; simp [h]
    · subst h2; simp [Memory.get?_cons, h]
    · rw [Memory.get?_cons, Memory.get?_cons, ih]

/-- What a write lists: the written index and what was listed before. -/
theorem Memory.mem_set (m : Memory) (i : Nat) (b : Byte) (c : Host.Cell) (h : c ∈ m.set i b) : c = (i, b) ∨ c ∈ m := by
  induction m with
  | nil => simpa [Memory.set] using h
  | cons d m ih =>
    unfold Memory.set at h
    split_ifs at h with h1 h2
    · simpa using h
    · simp at h
      rcases h with h | h
      · exact .inl h
      · exact .inr (by simp [h])
    · simp at h
      rcases h with h | h
      · exact .inr (by simp [h])
      · exact (ih h).imp id fun hm => by simp [hm]

theorem Memory.wf_iff (m : Memory) : m.wf ↔ m.Pairwise (fun c d => c.1 < d.1) := by
  simp [Memory.wf, Memory.unlisted]

theorem Memory.wf_nil : Memory.wf [] := by simp [Memory.wf]

/-- A write keeps the canonical form. -/
theorem Memory.set_wf (m : Memory) (i : Nat) (b : Byte) (h : m.wf) : (m.set i b).wf := by
  rw [Memory.wf_iff] at h ⊢
  induction m with
  | nil => simp [Memory.set]
  | cons c m ih =>
    obtain ⟨hc, hm⟩ := List.pairwise_cons.mp h
    unfold Memory.set
    split_ifs with h1 h2
    · refine List.pairwise_cons.mpr ⟨fun d hd => ?_, h⟩
      rcases List.mem_cons.mp hd with rfl | hd
      · exact h1
      · exact Nat.lt_trans h1 (hc d hd)
    · subst h2; exact List.pairwise_cons.mpr ⟨hc, hm⟩
    · refine List.pairwise_cons.mpr ⟨fun d hd => ?_, ih hm⟩
      rcases Memory.mem_set m i b d hd with rfl | hd
      · show c.1 < i
        omega
      · exact hc d hd

theorem Memory.mem_ofBytes (bs : List Byte) (i : Nat) (c : Host.Cell) (h : c ∈ Memory.ofBytes i bs) :
    i ≤ c.1 ∧ c.1 < i + bs.length := by
  induction bs generalizing i with
  | nil => simp [Memory.ofBytes] at h
  | cons b bs ih =>
    simp only [Memory.ofBytes, List.mem_cons] at h
    rcases h with rfl | h
    · simp
    · have := ih (i + 1) h
      simp only [List.length_cons]
      omega

/-- A buffer filled with a byte sequence is in canonical form. -/
theorem Memory.ofBytes_wf (bs : List Byte) (i : Nat) : (Memory.ofBytes i bs).wf := by
  rw [Memory.wf_iff]
  induction bs generalizing i with
  | nil => simp [Memory.ofBytes]
  | cons b bs ih =>
    refine List.pairwise_cons.mpr ⟨fun d hd => ?_, ih (i + 1)⟩
    have := Memory.mem_ofBytes bs (i + 1) d hd
    show i < d.1
    omega

/-- What a filled buffer holds: the bytes of the sequence, and nothing defined beyond them. -/
theorem Memory.get?_ofBytes (bs : List Byte) (i j : Nat) : (Memory.ofBytes i bs).get? (i + j) = bs[j]? := by
  induction bs generalizing i j with
  | nil => rfl
  | cons b bs ih =>
    rw [Memory.ofBytes, Memory.get?_cons]
    cases j with
    | zero => simp
    | succ k =>
      rw [if_neg (by simp), show i + (k + 1) = i + 1 + k by omega, ih]
      simp

@[simp] theorem Memory.get?_ofBytes_zero (bs : List Byte) (j : Nat) : (Memory.ofBytes 0 bs).get? j = bs[j]? := by
  simpa using Memory.get?_ofBytes bs 0 j

end Sys2Proof.Machine
end

