-- ==== Sys2Proof/Laws/State.lean ====
section
/-! SUPPORT. What each update of the state does to each field. -/

namespace Sys2Proof.Machine

variable (s : State)

@[simp] theorem State.setEnv_params (e : List Event) : (s.setEnv e).params = s.params := rfl
@[simp] theorem State.setEnv_irqEn (e : List Event) : (s.setEnv e).irqEn = s.irqEn := rfl
@[simp] theorem State.setEnv_status (e : List Event) : (s.setEnv e).status = s.status := rfl
@[simp] theorem State.setEnv_inLen (e : List Event) : (s.setEnv e).inLen = s.inLen := rfl
@[simp] theorem State.setEnv_outLen (e : List Event) : (s.setEnv e).outLen = s.outLen := rfl
@[simp] theorem State.setEnv_ibuf (e : List Event) : (s.setEnv e).ibuf = s.ibuf := rfl
@[simp] theorem State.setEnv_obuf (e : List Event) : (s.setEnv e).obuf = s.obuf := rfl
@[simp] theorem State.setEnv_engine (e : List Event) : (s.setEnv e).engine = s.engine := rfl
@[simp] theorem State.setEnv_rstN (e : List Event) : (s.setEnv e).rstN = s.rstN := rfl
@[simp] theorem State.setEnv_bus (e : List Event) : (s.setEnv e).bus = s.bus := rfl
@[simp] theorem State.setEnv_ibufDraw (e : List Event) : (s.setEnv e).ibufDraw = s.ibufDraw := rfl
@[simp] theorem State.setEnv_obufDraw (e : List Event) : (s.setEnv e).obufDraw = s.obufDraw := rfl
@[simp] theorem State.setEnv_env (e : List Event) : (s.setEnv e).env = e := rfl

@[simp] theorem State.respond_params (a : BusAnswer) : (s.respond a).params = s.params := rfl
@[simp] theorem State.respond_irqEn (a : BusAnswer) : (s.respond a).irqEn = s.irqEn := rfl
@[simp] theorem State.respond_status (a : BusAnswer) : (s.respond a).status = s.status := rfl
@[simp] theorem State.respond_inLen (a : BusAnswer) : (s.respond a).inLen = s.inLen := rfl
@[simp] theorem State.respond_outLen (a : BusAnswer) : (s.respond a).outLen = s.outLen := rfl
@[simp] theorem State.respond_ibuf (a : BusAnswer) : (s.respond a).ibuf = s.ibuf := rfl
@[simp] theorem State.respond_obuf (a : BusAnswer) : (s.respond a).obuf = s.obuf := rfl
@[simp] theorem State.respond_engine (a : BusAnswer) : (s.respond a).engine = s.engine := rfl
@[simp] theorem State.respond_rstN (a : BusAnswer) : (s.respond a).rstN = s.rstN := rfl
@[simp] theorem State.respond_bus (a : BusAnswer) : (s.respond a).bus = some a := rfl
@[simp] theorem State.respond_ibufDraw (a : BusAnswer) : (s.respond a).ibufDraw = s.ibufDraw := rfl
@[simp] theorem State.respond_obufDraw (a : BusAnswer) : (s.respond a).obufDraw = s.obufDraw := rfl
@[simp] theorem State.respond_env (a : BusAnswer) : (s.respond a).env = s.env := rfl

@[simp] theorem State.setIrqEn_params (b : Bool) : (s.setIrqEn b).params = s.params := rfl
@[simp] theorem State.setIrqEn_irqEn (b : Bool) : (s.setIrqEn b).irqEn = b := rfl
@[simp] theorem State.setIrqEn_status (b : Bool) : (s.setIrqEn b).status = s.status := rfl
@[simp] theorem State.setIrqEn_inLen (b : Bool) : (s.setIrqEn b).inLen = s.inLen := rfl
@[simp] theorem State.setIrqEn_outLen (b : Bool) : (s.setIrqEn b).outLen = s.outLen := rfl
@[simp] theorem State.setIrqEn_ibuf (b : Bool) : (s.setIrqEn b).ibuf = s.ibuf := rfl
@[simp] theorem State.setIrqEn_obuf (b : Bool) : (s.setIrqEn b).obuf = s.obuf := rfl
@[simp] theorem State.setIrqEn_engine (b : Bool) : (s.setIrqEn b).engine = s.engine := rfl
@[simp] theorem State.setIrqEn_rstN (b : Bool) : (s.setIrqEn b).rstN = s.rstN := rfl
@[simp] theorem State.setIrqEn_bus (b : Bool) : (s.setIrqEn b).bus = s.bus := rfl
@[simp] theorem State.setIrqEn_ibufDraw (b : Bool) : (s.setIrqEn b).ibufDraw = s.ibufDraw := rfl
@[simp] theorem State.setIrqEn_obufDraw (b : Bool) : (s.setIrqEn b).obufDraw = s.obufDraw := rfl
@[simp] theorem State.setIrqEn_env (b : Bool) : (s.setIrqEn b).env = s.env := rfl

@[simp] theorem State.setStatus_params (t : Status) : (s.setStatus t).params = s.params := rfl
@[simp] theorem State.setStatus_irqEn (t : Status) : (s.setStatus t).irqEn = s.irqEn := rfl
@[simp] theorem State.setStatus_status (t : Status) : (s.setStatus t).status = t := rfl
@[simp] theorem State.setStatus_inLen (t : Status) : (s.setStatus t).inLen = s.inLen := rfl
@[simp] theorem State.setStatus_outLen (t : Status) : (s.setStatus t).outLen = s.outLen := rfl
@[simp] theorem State.setStatus_ibuf (t : Status) : (s.setStatus t).ibuf = s.ibuf := rfl
@[simp] theorem State.setStatus_obuf (t : Status) : (s.setStatus t).obuf = s.obuf := rfl
@[simp] theorem State.setStatus_engine (t : Status) : (s.setStatus t).engine = s.engine := rfl
@[simp] theorem State.setStatus_rstN (t : Status) : (s.setStatus t).rstN = s.rstN := rfl
@[simp] theorem State.setStatus_bus (t : Status) : (s.setStatus t).bus = s.bus := rfl
@[simp] theorem State.setStatus_ibufDraw (t : Status) : (s.setStatus t).ibufDraw = s.ibufDraw := rfl
@[simp] theorem State.setStatus_obufDraw (t : Status) : (s.setStatus t).obufDraw = s.obufDraw := rfl
@[simp] theorem State.setStatus_env (t : Status) : (s.setStatus t).env = s.env := rfl

@[simp] theorem State.setInLen_params (w : Word) : (s.setInLen w).params = s.params := rfl
@[simp] theorem State.setInLen_irqEn (w : Word) : (s.setInLen w).irqEn = s.irqEn := rfl
@[simp] theorem State.setInLen_status (w : Word) : (s.setInLen w).status = s.status := rfl
@[simp] theorem State.setInLen_inLen (w : Word) : (s.setInLen w).inLen = w := rfl
@[simp] theorem State.setInLen_outLen (w : Word) : (s.setInLen w).outLen = s.outLen := rfl
@[simp] theorem State.setInLen_ibuf (w : Word) : (s.setInLen w).ibuf = s.ibuf := rfl
@[simp] theorem State.setInLen_obuf (w : Word) : (s.setInLen w).obuf = s.obuf := rfl
@[simp] theorem State.setInLen_engine (w : Word) : (s.setInLen w).engine = s.engine := rfl
@[simp] theorem State.setInLen_rstN (w : Word) : (s.setInLen w).rstN = s.rstN := rfl
@[simp] theorem State.setInLen_bus (w : Word) : (s.setInLen w).bus = s.bus := rfl
@[simp] theorem State.setInLen_ibufDraw (w : Word) : (s.setInLen w).ibufDraw = s.ibufDraw := rfl
@[simp] theorem State.setInLen_obufDraw (w : Word) : (s.setInLen w).obufDraw = s.obufDraw := rfl
@[simp] theorem State.setInLen_env (w : Word) : (s.setInLen w).env = s.env := rfl

@[simp] theorem State.setOutLen_params (w : Word) : (s.setOutLen w).params = s.params := rfl
@[simp] theorem State.setOutLen_irqEn (w : Word) : (s.setOutLen w).irqEn = s.irqEn := rfl
@[simp] theorem State.setOutLen_status (w : Word) : (s.setOutLen w).status = s.status := rfl
@[simp] theorem State.setOutLen_inLen (w : Word) : (s.setOutLen w).inLen = s.inLen := rfl
@[simp] theorem State.setOutLen_outLen (w : Word) : (s.setOutLen w).outLen = w := rfl
@[simp] theorem State.setOutLen_ibuf (w : Word) : (s.setOutLen w).ibuf = s.ibuf := rfl
@[simp] theorem State.setOutLen_obuf (w : Word) : (s.setOutLen w).obuf = s.obuf := rfl
@[simp] theorem State.setOutLen_engine (w : Word) : (s.setOutLen w).engine = s.engine := rfl
@[simp] theorem State.setOutLen_rstN (w : Word) : (s.setOutLen w).rstN = s.rstN := rfl
@[simp] theorem State.setOutLen_bus (w : Word) : (s.setOutLen w).bus = s.bus := rfl
@[simp] theorem State.setOutLen_ibufDraw (w : Word) : (s.setOutLen w).ibufDraw = s.ibufDraw := rfl
@[simp] theorem State.setOutLen_obufDraw (w : Word) : (s.setOutLen w).obufDraw = s.obufDraw := rfl
@[simp] theorem State.setOutLen_env (w : Word) : (s.setOutLen w).env = s.env := rfl

@[simp] theorem State.setIbuf_params (m : Memory) : (s.setIbuf m).params = s.params := rfl
@[simp] theorem State.setIbuf_irqEn (m : Memory) : (s.setIbuf m).irqEn = s.irqEn := rfl
@[simp] theorem State.setIbuf_status (m : Memory) : (s.setIbuf m).status = s.status := rfl
@[simp] theorem State.setIbuf_inLen (m : Memory) : (s.setIbuf m).inLen = s.inLen := rfl
@[simp] theorem State.setIbuf_outLen (m : Memory) : (s.setIbuf m).outLen = s.outLen := rfl
@[simp] theorem State.setIbuf_ibuf (m : Memory) : (s.setIbuf m).ibuf = m := rfl
@[simp] theorem State.setIbuf_obuf (m : Memory) : (s.setIbuf m).obuf = s.obuf := rfl
@[simp] theorem State.setIbuf_engine (m : Memory) : (s.setIbuf m).engine = s.engine := rfl
@[simp] theorem State.setIbuf_rstN (m : Memory) : (s.setIbuf m).rstN = s.rstN := rfl
@[simp] theorem State.setIbuf_bus (m : Memory) : (s.setIbuf m).bus = s.bus := rfl
@[simp] theorem State.setIbuf_ibufDraw (m : Memory) : (s.setIbuf m).ibufDraw = s.ibufDraw := rfl
@[simp] theorem State.setIbuf_obufDraw (m : Memory) : (s.setIbuf m).obufDraw = s.obufDraw := rfl
@[simp] theorem State.setIbuf_env (m : Memory) : (s.setIbuf m).env = s.env := rfl

@[simp] theorem State.setObuf_params (m : Memory) (d : Nat) : (s.setObuf m d).params = s.params := rfl
@[simp] theorem State.setObuf_irqEn (m : Memory) (d : Nat) : (s.setObuf m d).irqEn = s.irqEn := rfl
@[simp] theorem State.setObuf_status (m : Memory) (d : Nat) : (s.setObuf m d).status = s.status := rfl
@[simp] theorem State.setObuf_inLen (m : Memory) (d : Nat) : (s.setObuf m d).inLen = s.inLen := rfl
@[simp] theorem State.setObuf_outLen (m : Memory) (d : Nat) : (s.setObuf m d).outLen = s.outLen := rfl
@[simp] theorem State.setObuf_ibuf (m : Memory) (d : Nat) : (s.setObuf m d).ibuf = s.ibuf := rfl
@[simp] theorem State.setObuf_obuf (m : Memory) (d : Nat) : (s.setObuf m d).obuf = m := rfl
@[simp] theorem State.setObuf_engine (m : Memory) (d : Nat) : (s.setObuf m d).engine = s.engine := rfl
@[simp] theorem State.setObuf_rstN (m : Memory) (d : Nat) : (s.setObuf m d).rstN = s.rstN := rfl
@[simp] theorem State.setObuf_bus (m : Memory) (d : Nat) : (s.setObuf m d).bus = s.bus := rfl
@[simp] theorem State.setObuf_ibufDraw (m : Memory) (d : Nat) : (s.setObuf m d).ibufDraw = s.ibufDraw := rfl
@[simp] theorem State.setObuf_obufDraw (m : Memory) (d : Nat) : (s.setObuf m d).obufDraw = d := rfl
@[simp] theorem State.setObuf_env (m : Memory) (d : Nat) : (s.setObuf m d).env = s.env := rfl

@[simp] theorem State.setEngine_params (g : Engine) : (s.setEngine g).params = s.params := rfl
@[simp] theorem State.setEngine_irqEn (g : Engine) : (s.setEngine g).irqEn = s.irqEn := rfl
@[simp] theorem State.setEngine_status (g : Engine) : (s.setEngine g).status = s.status := rfl
@[simp] theorem State.setEngine_inLen (g : Engine) : (s.setEngine g).inLen = s.inLen := rfl
@[simp] theorem State.setEngine_outLen (g : Engine) : (s.setEngine g).outLen = s.outLen := rfl
@[simp] theorem State.setEngine_ibuf (g : Engine) : (s.setEngine g).ibuf = s.ibuf := rfl
@[simp] theorem State.setEngine_obuf (g : Engine) : (s.setEngine g).obuf = s.obuf := rfl
@[simp] theorem State.setEngine_engine (g : Engine) : (s.setEngine g).engine = g := rfl
@[simp] theorem State.setEngine_rstN (g : Engine) : (s.setEngine g).rstN = s.rstN := rfl
@[simp] theorem State.setEngine_bus (g : Engine) : (s.setEngine g).bus = s.bus := rfl
@[simp] theorem State.setEngine_ibufDraw (g : Engine) : (s.setEngine g).ibufDraw = s.ibufDraw := rfl
@[simp] theorem State.setEngine_obufDraw (g : Engine) : (s.setEngine g).obufDraw = s.obufDraw := rfl
@[simp] theorem State.setEngine_env (g : Engine) : (s.setEngine g).env = s.env := rfl

@[simp] theorem State.setRstN_params (b : Bool) : (s.setRstN b).params = s.params := rfl
@[simp] theorem State.setRstN_irqEn (b : Bool) : (s.setRstN b).irqEn = s.irqEn := rfl
@[simp] theorem State.setRstN_status (b : Bool) : (s.setRstN b).status = s.status := rfl
@[simp] theorem State.setRstN_inLen (b : Bool) : (s.setRstN b).inLen = s.inLen := rfl
@[simp] theorem State.setRstN_outLen (b : Bool) : (s.setRstN b).outLen = s.outLen := rfl
@[simp] theorem State.setRstN_ibuf (b : Bool) : (s.setRstN b).ibuf = s.ibuf := rfl
@[simp] theorem State.setRstN_obuf (b : Bool) : (s.setRstN b).obuf = s.obuf := rfl
@[simp] theorem State.setRstN_engine (b : Bool) : (s.setRstN b).engine = s.engine := rfl
@[simp] theorem State.setRstN_rstN (b : Bool) : (s.setRstN b).rstN = b := rfl
@[simp] theorem State.setRstN_bus (b : Bool) : (s.setRstN b).bus = s.bus := rfl
@[simp] theorem State.setRstN_ibufDraw (b : Bool) : (s.setRstN b).ibufDraw = s.ibufDraw := rfl
@[simp] theorem State.setRstN_obufDraw (b : Bool) : (s.setRstN b).obufDraw = s.obufDraw := rfl
@[simp] theorem State.setRstN_env (b : Bool) : (s.setRstN b).env = s.env := rfl

@[simp] theorem State.accept_params (p : Phase) : (s.accept p).params = s.params := rfl
@[simp] theorem State.accept_irqEn (p : Phase) : (s.accept p).irqEn = s.irqEn := rfl
@[simp] theorem State.accept_status (p : Phase) : (s.accept p).status = Status.accepted := rfl
@[simp] theorem State.accept_inLen (p : Phase) : (s.accept p).inLen = s.inLen := rfl
@[simp] theorem State.accept_outLen (p : Phase) : (s.accept p).outLen = 0 := rfl
@[simp] theorem State.accept_ibuf (p : Phase) : (s.accept p).ibuf = s.ibuf := rfl
@[simp] theorem State.accept_obuf (p : Phase) : (s.accept p).obuf = s.obuf := rfl
@[simp] theorem State.accept_engine (p : Phase) : (s.accept p).engine = { s.engine with phase := p } := rfl
@[simp] theorem State.accept_rstN (p : Phase) : (s.accept p).rstN = s.rstN := rfl
@[simp] theorem State.accept_bus (p : Phase) : (s.accept p).bus = s.bus := rfl
@[simp] theorem State.accept_ibufDraw (p : Phase) : (s.accept p).ibufDraw = s.ibufDraw := rfl
@[simp] theorem State.accept_obufDraw (p : Phase) : (s.accept p).obufDraw = s.obufDraw := rfl
@[simp] theorem State.accept_env (p : Phase) : (s.accept p).env = s.env := rfl

@[simp] theorem State.takeIllegal_params : (s.takeIllegal).params = s.params := rfl
@[simp] theorem State.takeIllegal_irqEn : (s.takeIllegal).irqEn = s.irqEn := rfl
@[simp] theorem State.takeIllegal_status : (s.takeIllegal).status = s.status.illegal := rfl
@[simp] theorem State.takeIllegal_inLen : (s.takeIllegal).inLen = s.inLen := rfl
@[simp] theorem State.takeIllegal_outLen : (s.takeIllegal).outLen = 0 := rfl
@[simp] theorem State.takeIllegal_ibuf : (s.takeIllegal).ibuf = s.ibuf := rfl
@[simp] theorem State.takeIllegal_obuf : (s.takeIllegal).obuf = s.obuf := rfl
@[simp] theorem State.takeIllegal_engine : (s.takeIllegal).engine = s.engine := rfl
@[simp] theorem State.takeIllegal_rstN : (s.takeIllegal).rstN = s.rstN := rfl
@[simp] theorem State.takeIllegal_bus : (s.takeIllegal).bus = s.bus := rfl
@[simp] theorem State.takeIllegal_ibufDraw : (s.takeIllegal).ibufDraw = s.ibufDraw := rfl
@[simp] theorem State.takeIllegal_obufDraw : (s.takeIllegal).obufDraw = s.obufDraw := rfl
@[simp] theorem State.takeIllegal_env : (s.takeIllegal).env = s.env := rfl

@[simp] theorem State.publish_params (r : Result) (o : List Byte) (g : Engine) : (s.publish r o g).params = s.params := rfl
@[simp] theorem State.publish_irqEn (r : Result) (o : List Byte) (g : Engine) : (s.publish r o g).irqEn = s.irqEn := rfl
@[simp] theorem State.publish_status (r : Result) (o : List Byte) (g : Engine) : (s.publish r o g).status = Status.completed r := rfl
@[simp] theorem State.publish_inLen (r : Result) (o : List Byte) (g : Engine) : (s.publish r o g).inLen = s.inLen := rfl
@[simp] theorem State.publish_outLen (r : Result) (o : List Byte) (g : Engine) : (s.publish r o g).outLen = BitVec.ofNat 32 o.length := rfl
@[simp] theorem State.publish_ibuf (r : Result) (o : List Byte) (g : Engine) : (s.publish r o g).ibuf = s.ibuf := rfl
@[simp] theorem State.publish_obuf (r : Result) (o : List Byte) (g : Engine) : (s.publish r o g).obuf = Memory.ofBytes 0 o := rfl
@[simp] theorem State.publish_engine (r : Result) (o : List Byte) (g : Engine) : (s.publish r o g).engine = { g with phase := .idle } := rfl
@[simp] theorem State.publish_rstN (r : Result) (o : List Byte) (g : Engine) : (s.publish r o g).rstN = s.rstN := rfl
@[simp] theorem State.publish_bus (r : Result) (o : List Byte) (g : Engine) : (s.publish r o g).bus = s.bus := rfl
@[simp] theorem State.publish_ibufDraw (r : Result) (o : List Byte) (g : Engine) : (s.publish r o g).ibufDraw = s.ibufDraw := rfl
@[simp] theorem State.publish_obufDraw (r : Result) (o : List Byte) (g : Engine) : (s.publish r o g).obufDraw = s.obufDraw + 1 := rfl
@[simp] theorem State.publish_env (r : Result) (o : List Byte) (g : Engine) : (s.publish r o g).env = s.env := rfl

@[simp] theorem State.writeStatus_params (w : Word) : (s.writeStatus w).params = s.params := rfl
@[simp] theorem State.writeStatus_irqEn (w : Word) : (s.writeStatus w).irqEn = s.irqEn := rfl
@[simp] theorem State.writeStatus_status (w : Word) : (s.writeStatus w).status = s.status.afterWrite w := rfl
@[simp] theorem State.writeStatus_inLen (w : Word) : (s.writeStatus w).inLen = s.inLen := rfl
@[simp] theorem State.writeStatus_outLen (w : Word) : (s.writeStatus w).outLen = s.outLen := rfl
@[simp] theorem State.writeStatus_ibuf (w : Word) : (s.writeStatus w).ibuf = s.ibuf := rfl
@[simp] theorem State.writeStatus_obuf (w : Word) : (s.writeStatus w).obuf = s.obuf := rfl
@[simp] theorem State.writeStatus_engine (w : Word) : (s.writeStatus w).engine = s.engine := rfl
@[simp] theorem State.writeStatus_rstN (w : Word) : (s.writeStatus w).rstN = s.rstN := rfl
@[simp] theorem State.writeStatus_bus (w : Word) : (s.writeStatus w).bus = s.bus := rfl
@[simp] theorem State.writeStatus_ibufDraw (w : Word) : (s.writeStatus w).ibufDraw = s.ibufDraw := rfl
@[simp] theorem State.writeStatus_obufDraw (w : Word) : (s.writeStatus w).obufDraw = s.obufDraw := rfl
@[simp] theorem State.writeStatus_env (w : Word) : (s.writeStatus w).env = s.env := rfl

/-! The reset state, field by field. -/

@[simp] theorem State.afterReset_params (p : Params) (d : Nat) (e : List Event) : (State.afterReset p d e).params = p := rfl
@[simp] theorem State.afterReset_irqEn (p : Params) (d : Nat) (e : List Event) : (State.afterReset p d e).irqEn = false := rfl
@[simp] theorem State.afterReset_status (p : Params) (d : Nat) (e : List Event) : (State.afterReset p d e).status = { busy := false, done := false, result := .none } := rfl
@[simp] theorem State.afterReset_inLen (p : Params) (d : Nat) (e : List Event) : (State.afterReset p d e).inLen = 0 := rfl
@[simp] theorem State.afterReset_outLen (p : Params) (d : Nat) (e : List Event) : (State.afterReset p d e).outLen = 0 := rfl
@[simp] theorem State.afterReset_ibuf (p : Params) (d : Nat) (e : List Event) : (State.afterReset p d e).ibuf = [] := rfl
@[simp] theorem State.afterReset_obuf (p : Params) (d : Nat) (e : List Event) : (State.afterReset p d e).obuf = [] := rfl
@[simp] theorem State.afterReset_engine (p : Params) (d : Nat) (e : List Event) : (State.afterReset p d e).engine = Engine.reset := rfl
@[simp] theorem State.afterReset_rstN (p : Params) (d : Nat) (e : List Event) : (State.afterReset p d e).rstN = true := rfl
@[simp] theorem State.afterReset_bus (p : Params) (d : Nat) (e : List Event) : (State.afterReset p d e).bus = none := rfl
@[simp] theorem State.afterReset_ibufDraw (p : Params) (d : Nat) (e : List Event) : (State.afterReset p d e).ibufDraw = d := rfl
@[simp] theorem State.afterReset_obufDraw (p : Params) (d : Nat) (e : List Event) : (State.afterReset p d e).obufDraw = d := rfl
@[simp] theorem State.afterReset_env (p : Params) (d : Nat) (e : List Event) : (State.afterReset p d e).env = e := rfl
@[simp] theorem State.reset_params : State.reset.params = Config.resetParams := rfl
@[simp] theorem State.reset_irqEn : State.reset.irqEn = false := rfl
@[simp] theorem State.reset_status : State.reset.status = { busy := false, done := false, result := .none } := rfl
@[simp] theorem State.reset_inLen : State.reset.inLen = 0 := rfl
@[simp] theorem State.reset_outLen : State.reset.outLen = 0 := rfl
@[simp] theorem State.reset_ibuf : State.reset.ibuf = [] := rfl
@[simp] theorem State.reset_obuf : State.reset.obuf = [] := rfl
@[simp] theorem State.reset_engine : State.reset.engine = Engine.reset := rfl
@[simp] theorem State.reset_rstN : State.reset.rstN = true := rfl
@[simp] theorem State.reset_bus : State.reset.bus = none := rfl
@[simp] theorem State.reset_ibufDraw : State.reset.ibufDraw = 0 := rfl
@[simp] theorem State.reset_obufDraw : State.reset.obufDraw = 0 := rfl
@[simp] theorem State.reset_env : State.reset.env = [] := rfl
@[simp] theorem Engine.reset_phase : Engine.reset.phase = .idle := rfl

theorem State.writeIbufWord_eq (i : Nat) (w : Word) : s.writeIbufWord i w = s.setIbuf (s.writeIbufWord i w).ibuf := rfl

/-- Two updates of the same field: the last one counts. -/
@[simp] theorem State.setEnv_setEnv (d e : List Event) : (s.setEnv d).setEnv e = s.setEnv e := rfl
@[simp] theorem State.setEnv_env_self : s.setEnv s.env = s := rfl
@[simp] theorem State.respond_respond (a b : BusAnswer) : (s.respond a).respond b = s.respond b := rfl
theorem State.respond_setEnv (a : BusAnswer) (e : List Event) : (s.respond a).setEnv e = (s.setEnv e).respond a := rfl

/-- The answer on the bus and the waiting events are read by no accessor of the buffers, of STATUS or of irq. -/
@[simp] theorem State.respond_ibufByte (a : BusAnswer) (i : Nat) : (s.respond a).ibufByte i = s.ibufByte i := rfl
@[simp] theorem State.respond_obufByte (a : BusAnswer) (j : Nat) : (s.respond a).obufByte j = s.obufByte j := rfl
@[simp] theorem State.respond_memByte (a : BusAnswer) (i : Nat) : (s.respond a).memByte i = s.memByte i := rfl
@[simp] theorem State.respond_input (a : BusAnswer) : (s.respond a).input = s.input := rfl
@[simp] theorem State.respond_output (a : BusAnswer) : (s.respond a).output = s.output := rfl
@[simp] theorem State.respond_irq (a : BusAnswer) : (s.respond a).irq = s.irq := rfl
@[simp] theorem State.setEnv_ibufByte (e : List Event) (i : Nat) : (s.setEnv e).ibufByte i = s.ibufByte i := rfl
@[simp] theorem State.setEnv_obufByte (e : List Event) (j : Nat) : (s.setEnv e).obufByte j = s.obufByte j := rfl
@[simp] theorem State.setEnv_memByte (e : List Event) (i : Nat) : (s.setEnv e).memByte i = s.memByte i := rfl
@[simp] theorem State.setEnv_input (e : List Event) : (s.setEnv e).input = s.input := rfl
@[simp] theorem State.setEnv_output (e : List Event) : (s.setEnv e).output = s.output := rfl
@[simp] theorem State.setEnv_irq (e : List Event) : (s.setEnv e).irq = s.irq := rfl

end Sys2Proof.Machine
end

