-- ==== Sys2Proof/Laws/Step.lean ====
section
/-! SUPPORT. What a shared operation and a step can do, said once. -/

namespace Sys2Proof.Machine

variable (s : State)

/-- An idle block takes a command's effect and answers OKAY. -/
theorem State.onCommand_idle (f : State → State) (h : s.status.busy = false) :
    s.onCommand f = (f s).respond (.write .okay) := by
  simp [State.onCommand, h]

/-- A busy block answers a command SLVERR and does nothing else. -/
theorem State.onCommand_busy (f : State → State) (h : s.status.busy = true) :
    s.onCommand f = s.respond (.write .slverr) := by
  simp [State.onCommand, h]

/-- Every command answers a next state: SLVERR while busy, and otherwise its effect. -/
theorem exec_cases (i : Instr) :
    (s.status.busy = true ∧ exec i s = .next (s.respond (.write .slverr))) ∨
    (s.status.busy = false ∧ i = .nop ∧ exec i s = .next (s.respond (.write .okay))) ∨
    (s.status.busy = false ∧ i = .compress ∧ exec i s = .next ((s.accept .encCount).respond (.write .okay))) ∨
    (s.status.busy = false ∧ i = .decompress ∧ exec i s = .next ((s.accept .decParse).respond (.write .okay))) := by
  cases hb : s.status.busy <;> cases i <;>
    simp [exec, execNop, execCompress, execDecompress, State.onCommand, hb]

/-- A write to CMD: SLVERR while busy, else the decoded command, else the illegal command. -/
theorem writeCmd_cases (w : Word) :
    (s.status.busy = true ∧ writeCmd w s = .next (s.respond (.write .slverr))) ∨
    (s.status.busy = false ∧ ∃ i, decode w = .ok i ∧ writeCmd w s = exec i s) ∨
    (s.status.busy = false ∧ ∃ e, decode w = .error e ∧ writeCmd w s = .next (s.takeIllegal.respond (.write .okay))) := by
  unfold writeCmd
  cases hd : decode w with
  | ok i =>
    cases hb : s.status.busy with
    | false => exact .inr (.inl ⟨rfl, i, rfl, rfl⟩)
    | true => exact .inl ⟨rfl, by cases i <;> simp [exec, execNop, execCompress, execDecompress, State.onCommand, hb]⟩
  | error e =>
    cases hb : s.status.busy with
    | false => exact .inr (.inr ⟨rfl, e, rfl, by simp [execIllegal, State.onCommand, hb]⟩)
    | true => exact .inl ⟨rfl, by simp [execIllegal, State.onCommand, hb]⟩

/-- What a host transaction can do. -/
theorem State.transact_cases (t : Transaction) :
    (∃ a, s.transact t = .next (s.respond a)) ∨
    (∃ b, s.transact t = .next ((s.setIrqEn b).respond (.write .okay))) ∨
    (∃ w, s.transact t = .next ((s.writeStatus w).respond (.write .okay))) ∨
    (∃ w, s.status.busy = false ∧ w.toNat ≤ s.params.ibufSize ∧
      s.transact t = .next ((s.setInLen w).respond (.write .okay))) ∨
    (∃ i w, s.status.busy = false ∧ locate s.params t.addr = .ibuf i ∧
      s.transact t = .next ((s.writeIbufWord i w).respond (.write .okay))) ∨
    (s.status.busy = false ∧
      (s.transact t = .next ((s.accept .encCount).respond (.write .okay)) ∨
        s.transact t = .next ((s.accept .decParse).respond (.write .okay)) ∨
        s.transact t = .next (s.takeIllegal.respond (.write .okay)))) := by
  cases t with
  | read a => exact .inl ⟨_, rfl⟩
  | write a w =>
    simp only [State.transact, State.writeWord, Transaction.addr]
    cases hl : locate s.params a with
    | misaligned => exact .inl ⟨_, rfl⟩
    | unmapped => exact .inl ⟨_, rfl⟩
    | obuf j => exact .inl ⟨_, rfl⟩
    | ibuf i =>
      cases hb : s.status.busy with
      | true => exact .inl ⟨.write .slverr, by simp⟩
      | false => exact .inr (.inr (.inr (.inr (.inl ⟨i, w, rfl, rfl, by simp⟩))))
    | reg r =>
      cases r with
      | id => exact .inl ⟨_, rfl⟩
      | ibufSize => exact .inl ⟨_, rfl⟩
      | obufSize => exact .inl ⟨_, rfl⟩
      | outLen => exact .inl ⟨_, rfl⟩
      | ctrl => exact .inr (.inl ⟨_, rfl⟩)
      | status => exact .inr (.inr (.inl ⟨w, rfl⟩))
      | inLen =>
        simp only [State.writeReg, State.writeInLen]
        cases hb : s.status.busy with
        | true => exact .inl ⟨.write .slverr, by simp⟩
        | false =>
          by_cases hw : s.params.ibufSize < w.toNat
          · exact .inl ⟨.write .slverr, by simp [hw]⟩
          · exact .inr (.inr (.inr (.inl ⟨w, rfl, by omega, by simp [hw]⟩)))
      | cmd =>
        simp only [State.writeReg]
        rcases writeCmd_cases s w with ⟨_, h⟩ | ⟨hb, i, _, h⟩ | ⟨hb, e, _, h⟩
        · exact .inl ⟨_, h⟩
        · rw [h]
          rcases exec_cases s i with ⟨_, h'⟩ | ⟨_, _, h'⟩ | ⟨_, _, h'⟩ | ⟨_, _, h'⟩
          · exact .inl ⟨_, h'⟩
          · exact .inl ⟨_, h'⟩
          · exact .inr (.inr (.inr (.inr (.inr ⟨hb, .inl h'⟩))))
          · exact .inr (.inr (.inr (.inr (.inr ⟨hb, .inr (.inl h')⟩))))
        · exact .inr (.inr (.inr (.inr (.inr ⟨hb, .inr (.inr h)⟩))))

/-- A step with nothing waiting is the engine's turn. -/
theorem step_nil (h : s.env = []) : step s = .next s.engineTurn := by
  simp [step, State.advance, h]

/-- A step with an event waiting takes the first event. -/
theorem step_cons (e : Event) (rest : List Event) (h : s.env = e :: rest) : step s = (s.setEnv rest).happen e := by
  simp [step, State.advance, h]

theorem step_host (t : Transaction) (rest : List Event) (h : s.env = .host t :: rest) (hr : s.rstN = true) :
    step s = (s.setEnv rest).transact t := by
  simp [step_cons s _ _ h, State.happen, hr]

theorem step_engine (rest : List Event) (h : s.env = .engine :: rest) :
    step s = .next (s.setEnv rest).engineTurn := by
  simp [step_cons s _ _ h, State.happen]

theorem step_rst (level : Bool) (rest : List Event) (h : s.env = .rst level :: rest) :
    step s = .next ((s.setEnv rest).driveReset level) := by
  simp [step_cons s _ _ h, State.happen]

/-- Everything a step that answers a next state can be. -/
theorem step_cases (t : State) (h : step s = .next t) :
    (s.env = [] ∧ t = s.engineTurn) ∨
    (∃ rest, s.env = .engine :: rest ∧ t = (s.setEnv rest).engineTurn) ∨
    (∃ level rest, s.env = .rst level :: rest ∧ t = (s.setEnv rest).driveReset level) ∨
    (∃ x rest, s.env = .host x :: rest ∧ s.rstN = true ∧ (s.setEnv rest).transact x = .next t) := by
  cases he : s.env with
  | nil =>
    rw [step_nil s he] at h
    exact .inl ⟨rfl, by cases h; rfl⟩
  | cons e rest =>
    cases e with
    | engine =>
      rw [step_engine s rest he] at h
      exact .inr (.inl ⟨rest, rfl, by cases h; rfl⟩)
    | rst level =>
      rw [step_rst s level rest he] at h
      exact .inr (.inr (.inl ⟨level, rest, rfl, by cases h; rfl⟩))
    | host x =>
      cases hr : s.rstN with
      | false =>
        rw [step_cons s _ _ he] at h
        simp [State.happen, hr] at h
      | true =>
        rw [step_host s x rest he hr] at h
        exact .inr (.inr (.inr ⟨x, rest, rfl, rfl, h⟩))

/-- The engine's turn: nothing, or the completion of a running command. -/
theorem State.engineTurn_cases :
    ((s.rstN = false ∨ s.status.busy = false) ∧ s.engineTurn = s) ∨
    (s.rstN = true ∧ s.status.busy = true ∧ s.engineTurn = s.complete) := by
  cases hr : s.rstN <;> cases hb : s.status.busy <;> simp [State.engineTurn, hr, hb]

/-- A completion publishes an outcome that is never NONE, with no bytes unless it is OK. -/
theorem State.complete_cases : ∃ r out g, r ≠ .none ∧ (r ≠ .ok → out = []) ∧ s.complete = s.publish r out g := by
  unfold State.complete State.completeEncode State.completeDecode
  split
  · exact ⟨.ok, _, _, by simp, by simp, rfl⟩
  · cases huffDecode s.input with
    | ok out => exact ⟨.ok, out, _, by simp, by simp, rfl⟩
    | error e => exact ⟨e.result, [], _, by cases e <;> simp [DecodeFault.result], by simp, rfl⟩

/-- A host transaction always answers a next state. -/
theorem State.transact_next (t : Transaction) : ∃ u, s.transact t = .next u := by
  rcases s.transact_cases t with ⟨_, h⟩ | ⟨_, h⟩ | ⟨_, h⟩ | ⟨_, _, _, h⟩ | ⟨_, _, _, _, h⟩ | ⟨_, h | h | h⟩ <;>
    exact ⟨_, h⟩

end Sys2Proof.Machine
end

