-- ==== Sys2Proof/Laws/Bus.lean ====
section
/-! SUPPORT. The address decode in numbers, and the words of the buffer windows. -/

namespace Sys2Proof.Machine

/-- The fields of an address the decode looks at (R61, R65). -/
theorem addr_low (a : Word) : a.extractLsb' 0 2 = 0 ↔ a.toNat % 4 = 0 := by
  rw [← BitVec.toNat_inj]; simp

theorem addr_offset (a : Word) : (a.extractLsb' 0 30).toNat = a.toNat % 2 ^ 30 := by simp

theorem addr_region (a : Word) (r : BitVec 2) : a.extractLsb' 30 2 = r ↔ a.toNat / 2 ^ 30 = r.toNat := by
  rw [← BitVec.toNat_inj]
  simp only [BitVec.extractLsb'_toNat, Nat.shiftRight_eq_div_pow]
  have := a.isLt
  omega

/-- A misaligned address (R65). -/
theorem locate_misaligned (p : Params) (a : Word) (h : a.toNat % 4 ≠ 0) : locate p a = .misaligned := by
  simp only [locate]
  rw [if_pos (fun h' => h ((addr_low a).mp h'))]

/-- An aligned address, by region, in numbers (R61 to R64, R66). -/
theorem locate_aligned (p : Params) (a : Word) (h : a.toNat % 4 = 0) :
    locate p a =
      if a.toNat < 0x40000000 then regAt a.toNat
      else if a.toNat < 0x80000000 then
        (if a.toNat - 0x40000000 < p.ibufSize then .ibuf (a.toNat - 0x40000000) else .unmapped)
      else if a.toNat < 0xC0000000 then
        (if a.toNat - 0x80000000 < p.obufSize then .obuf (a.toNat - 0x80000000) else .unmapped)
      else .unmapped := by
  have hlt := a.isLt
  simp only [locate]
  rw [if_neg (not_not.mpr ((addr_low a).mpr h))]
  simp only [addr_region, addr_offset]
  by_cases h0 : a.toNat < 0x40000000
  · rw [if_pos h0, if_pos (by simp; omega), Nat.mod_eq_of_lt (by omega)]
  · rw [if_neg h0, if_neg (by simp; omega)]
    by_cases h1 : a.toNat < 0x80000000
    · rw [if_pos h1, if_pos (by simp; omega), show a.toNat % 2 ^ 30 = a.toNat - 0x40000000 by omega]
    · rw [if_neg h1, if_neg (by simp; omega)]
      by_cases h2 : a.toNat < 0xC0000000
      · rw [if_pos h2, if_pos (by simp; omega), show a.toNat % 2 ^ 30 = a.toNat - 0x80000000 by omega]
      · rw [if_neg h2, if_neg (by simp; omega)]

/-- The decode reaches a register exactly at its own address (R62). -/
theorem locate_reg_iff (p : Params) (a : Word) (r : Reg) : locate p a = .reg r ↔ a = r.addr := by
  constructor
  · intro h
    by_cases hm : a.toNat % 4 = 0
    · rw [locate_aligned p a hm] at h
      split_ifs at h
      apply BitVec.eq_of_toNat_eq
      simp only [regAt] at h
      split_ifs at h <;> cases h <;> simp_all [Reg.addr, Reg.offset]
    · rw [locate_misaligned p a hm] at h
      cases h
  · rintro rfl
    rw [locate_aligned _ _ (by cases r <;> decide)]
    cases r <;> rfl

/-- The decode reaches IBUF exactly in its window (R63). -/
theorem locate_ibuf_iff (p : Params) (a : Word) (i : Nat) :
    locate p a = .ibuf i ↔
      (a.toNat = 0x40000000 + i ∧ i % 4 = 0 ∧ i < p.ibufSize ∧ i < 0x40000000) := by
  by_cases hm : a.toNat % 4 = 0
  · rw [locate_aligned p a hm]
    constructor
    · intro h
      split_ifs at h with h0 h1 h2
      · simp only [regAt] at h
        split_ifs at h
      · injection h with h; omega
    · rintro ⟨ha, _, hi, hk⟩
      rw [if_neg (by omega), if_pos (by omega), if_pos (by omega), show a.toNat - 0x40000000 = i by omega]
  · rw [locate_misaligned p a hm]
    constructor
    · intro h; cases h
    · rintro ⟨ha, hi, _⟩; omega

/-- The decode reaches OBUF exactly in its window (R64). -/
theorem locate_obuf_iff (p : Params) (a : Word) (j : Nat) :
    locate p a = .obuf j ↔
      (a.toNat = 0x80000000 + j ∧ j % 4 = 0 ∧ j < p.obufSize ∧ j < 0x40000000) := by
  by_cases hm : a.toNat % 4 = 0
  · rw [locate_aligned p a hm]
    constructor
    · intro h
      split_ifs at h with h0 h1 h2 h3
      · simp only [regAt] at h
        split_ifs at h
      · injection h with h; omega
    · rintro ⟨ha, _, hi, hk⟩
      rw [if_neg (by omega), if_neg (by omega), if_pos (by omega), if_pos (by omega),
        show a.toNat - 0x80000000 = j by omega]
  · rw [locate_misaligned p a hm]
    constructor
    · intro h; cases h
    · rintro ⟨ha, hi, _⟩; omega

/-- What the constraints of R8 say, as inequalities. -/
theorem Params.legal_iff (p : Params) : p.legal = true ↔
    (4 ≤ p.ibufSize ∧ p.ibufSize ≤ 2 ^ 27 ∧ p.ibufSize % 4 = 0 ∧ p.obufSize % 4 = 0 ∧ p.obufSize ≤ 2 ^ 30 ∧
      8 * p.ibufSize ≤ p.obufSize ∧ p.ibufSize + 522 ≤ p.obufSize) := by
  simp [Params.legal]
  omega

/-- The decode of a mapped, of a misaligned and of an unmapped address, all at once, for legal sizes (R61 to R66). -/
theorem locate_cases (p : Params) (hp : p.legal = true) (a : Word) :
    (a.toNat % 4 ≠ 0 ∧ locate p a = .misaligned) ∨
    (a.toNat % 4 = 0 ∧ a.toNat < 0x20 ∧ ∃ r, a = r.addr ∧ locate p a = .reg r) ∨
    (a.toNat % 4 = 0 ∧ 0x40000000 ≤ a.toNat ∧ a.toNat < 0x40000000 + p.ibufSize ∧
      locate p a = .ibuf (a.toNat - 0x40000000)) ∨
    (a.toNat % 4 = 0 ∧ 0x80000000 ≤ a.toNat ∧ a.toNat < 0x80000000 + p.obufSize ∧
      locate p a = .obuf (a.toNat - 0x80000000)) ∨
    (a.toNat % 4 = 0 ∧ ¬ (a.toNat < 0x20 ∨ inWindow p a.toNat) ∧ locate p a = .unmapped) := by
  rw [Params.legal_iff] at hp
  by_cases hm : a.toNat % 4 = 0
  · rcases Nat.lt_or_ge a.toNat 0x20 with h20 | h20
    · refine .inr (.inl ⟨hm, h20, ?_⟩)
      have hr : ∃ r : Reg, a = r.addr := by
        have : a.toNat = 0 ∨ a.toNat = 4 ∨ a.toNat = 8 ∨ a.toNat = 12 ∨ a.toNat = 16 ∨ a.toNat = 20 ∨ a.toNat = 24 ∨
            a.toNat = 28 := by omega
        rcases this with h | h | h | h | h | h | h | h
        · exact ⟨.id, BitVec.eq_of_toNat_eq h⟩
        · exact ⟨.ibufSize, BitVec.eq_of_toNat_eq h⟩
        · exact ⟨.obufSize, BitVec.eq_of_toNat_eq h⟩
        · exact ⟨.ctrl, BitVec.eq_of_toNat_eq h⟩
        · exact ⟨.cmd, BitVec.eq_of_toNat_eq h⟩
        · exact ⟨.status, BitVec.eq_of_toNat_eq h⟩
        · exact ⟨.inLen, BitVec.eq_of_toNat_eq h⟩
        · exact ⟨.outLen, BitVec.eq_of_toNat_eq h⟩
      obtain ⟨r, hr⟩ := hr
      exact ⟨r, hr, (locate_reg_iff p a r).mpr hr⟩
    · by_cases hi : 0x40000000 ≤ a.toNat ∧ a.toNat < 0x40000000 + p.ibufSize
      · exact .inr (.inr (.inl ⟨hm, hi.1, hi.2, (locate_ibuf_iff _ _ _).mpr (by omega)⟩))
      · by_cases ho : 0x80000000 ≤ a.toNat ∧ a.toNat < 0x80000000 + p.obufSize
        · exact .inr (.inr (.inr (.inl ⟨hm, ho.1, ho.2, (locate_obuf_iff _ _ _).mpr (by omega)⟩)))
        · refine .inr (.inr (.inr (.inr ⟨hm, by unfold inWindow; omega, ?_⟩)))
          rw [locate_aligned p a hm]
          split_ifs
          · unfold regAt
            split_ifs <;> first | omega | rfl
          all_goals first | rfl | omega
  · exact .inl ⟨hm, locate_misaligned p a hm⟩

/-- A packed word holds its four bytes (R63). -/
theorem packWord_toNat (b0 b1 b2 b3 : Byte) :
    (packWord b0 b1 b2 b3).toNat = b0.toNat + 2 ^ 8 * b1.toNat + 2 ^ 16 * b2.toNat + 2 ^ 24 * b3.toNat := by
  have h0 := b0.isLt
  have h1 := b1.isLt
  have h2 := b2.isLt
  simp only [packWord, BitVec.toNat_append]
  rw [← Nat.shiftLeft_add_eq_or_of_lt h2, ← Nat.shiftLeft_add_eq_or_of_lt h1, ← Nat.shiftLeft_add_eq_or_of_lt h0]
  simp only [Nat.shiftLeft_eq]
  omega

/-- Byte `k` of a word, in numbers (R152). -/
theorem wordByte_toNat (w : Word) (k : Nat) : (wordByte w k).toNat = w.toNat / 2 ^ (8 * k) % 2 ^ 8 := by
  simp [wordByte, Nat.shiftRight_eq_div_pow]

/-- Packing the bytes of a word gives the word back. -/
theorem packWord_wordByte (w : Word) : packWord (wordByte w 0) (wordByte w 1) (wordByte w 2) (wordByte w 3) = w := by
  apply BitVec.eq_of_toNat_eq
  rw [packWord_toNat]
  simp only [wordByte_toNat]
  have := w.isLt
  omega

/-- A window write keeps the canonical form. -/
theorem State.writeIbufWord_wf (s : State) (i : Nat) (w : Word) (h : s.ibuf.wf) : (s.writeIbufWord i w).ibuf.wf :=
  Memory.set_wf _ _ _ (Memory.set_wf _ _ _ (Memory.set_wf _ _ _ (Memory.set_wf _ _ _ h)))

/-- What a window write lists: its own four bytes and what was listed before. -/
theorem State.mem_writeIbufWord (s : State) (i : Nat) (w : Word) (c : Host.Cell) (h : c ∈ (s.writeIbufWord i w).ibuf) :
    (i ≤ c.1 ∧ c.1 < i + 4) ∨ c ∈ s.ibuf := by
  rcases Memory.mem_set _ _ _ _ h with rfl | h
  · left; simp
  · rcases Memory.mem_set _ _ _ _ h with rfl | h
    · left; simp
    · rcases Memory.mem_set _ _ _ _ h with rfl | h
      · left; simp
      · rcases Memory.mem_set _ _ _ _ h with rfl | h
        · left; simp
        · exact .inr h

/-- The bytes of IBUF after a window write (R152). -/
theorem State.ibufByte_writeIbufWord (s : State) (i j : Nat) (w : Word) :
    (s.writeIbufWord i w).ibufByte j =
      if j = i then wordByte w 0 else if j = i + 1 then wordByte w 1 else if j = i + 2 then wordByte w 2
      else if j = i + 3 then wordByte w 3 else s.ibufByte j := by
  have hg : (s.writeIbufWord i w).ibuf.get? j =
      if j = i then some (wordByte w 0) else if j = i + 1 then some (wordByte w 1)
      else if j = i + 2 then some (wordByte w 2) else if j = i + 3 then some (wordByte w 3) else s.ibuf.get? j := by
    simp only [State.writeIbufWord, State.setIbuf_ibuf]
    split_ifs with h0 h1 h2 h3
    · subst h0
      rw [Memory.get?_set_other _ _ _ _ (by omega), Memory.get?_set_other _ _ _ _ (by omega),
        Memory.get?_set_other _ _ _ _ (by omega), Memory.get?_set_same]
    · subst h1
      rw [Memory.get?_set_other _ _ _ _ (by omega), Memory.get?_set_other _ _ _ _ (by omega), Memory.get?_set_same]
    · subst h2
      rw [Memory.get?_set_other _ _ _ _ (by omega), Memory.get?_set_same]
    · subst h3
      rw [Memory.get?_set_same]
    · rw [Memory.get?_set_other _ _ _ _ (by omega), Memory.get?_set_other _ _ _ _ (by omega),
        Memory.get?_set_other _ _ _ _ (by omega), Memory.get?_set_other _ _ _ _ (by omega)]
  have hd : (s.writeIbufWord i w).ibufDraw = s.ibufDraw := rfl
  unfold State.ibufByte
  rw [hg, hd]
  split_ifs <;> rfl

end Sys2Proof.Machine
end

