-- ==== Sys2Proof/Laws/Nodes.lean ====
section
/-! SUPPORT. A tree node that fits its stored widths is stored without loss (R37, R41). -/

namespace Sys2Proof.Machine

theorem EncNode.load_store_leaf (w s : Nat) (hw : w < 2 ^ 32) (hs : s < 2 ^ 8) :
    (HuffNode.leaf w s).store.load = .leaf w s := by
  simp only [HuffNode.store, EncNode.load, BitVec.toNat_ofNat, Nat.mod_eq_of_lt hw, Nat.mod_eq_of_lt hs]

theorem EncNode.load_store_inner (w l r : Nat) (hw : w < 2 ^ 32) (hl : l < 2 ^ 9) (hr : r < 2 ^ 9) :
    (HuffNode.inner w l r).store.load = .inner w l r := by
  simp only [HuffNode.store, EncNode.load, BitVec.toNat_ofNat, Nat.mod_eq_of_lt hw, Nat.mod_eq_of_lt hl,
    Nat.mod_eq_of_lt hr]

theorem DecNode.load_store_leaf (s : Nat) (hs : s < 2 ^ 8) : (TrieNode.leaf s).store.load = .leaf s := by
  simp only [TrieNode.store, DecNode.load, BitVec.toNat_ofNat, Nat.mod_eq_of_lt hs]

/-- A child that fits 9 bits, or NONE, comes back. -/
theorem childIndex_load_store (c : Option Nat) (h : ∀ k ∈ c, k < 2 ^ 9) :
    (c.map (BitVec.ofNat 9)).map BitVec.toNat = c := by
  cases c with
  | none => rfl
  | some k => simp only [Option.map_some, BitVec.toNat_ofNat, Nat.mod_eq_of_lt (h k rfl)]

theorem DecNode.load_store_inner (l r : Option Nat) (hl : ∀ k ∈ l, k < 2 ^ 9) (hr : ∀ k ∈ r, k < 2 ^ 9) :
    (TrieNode.inner l r).store.load = .inner l r := by
  simp only [TrieNode.store, DecNode.load, childIndex_load_store l hl, childIndex_load_store r hr]

end Sys2Proof.Machine
end

