-- ==== Sys2Proof/Laws/PerInstr.lean ====
section
/-! SUPPORT. Facts stated of every instruction as syntax, one lemma per constructor. -/

namespace Sys2Proof.Laws.EncodedFields

/-- The encoded word has RSVD 0 and the instruction's OP (R90, R91), and the instruction is well formed. -/
def Statement (i : Instr) : Prop :=
  (cmdFields (encode i)).rsvd = 0 ∧ (cmdFields (encode i)).op = opOf i ∧ i.wf = true

theorem nop : Statement .nop := by unfold Statement; decide

theorem compress : Statement .compress := by unfold Statement; decide

theorem decompress : Statement .decompress := by unfold Statement; decide

end Sys2Proof.Laws.EncodedFields
end

