-- ==== Sys2Proof/Tests/Slice0.lean ====
section
/-! SUPPORT. Tests of the model, each one step or one function call, with the result the spec gives (95_test_vectors.md
and the rules' own examples), and a witness for the hypotheses of every statement that has some. -/

namespace Sys2Proof.Tests

open Sys2Proof.Machine

/-! ## Well-formedness: one ill-formed term for each check -/

theorem test_params_legal : Config.resetParams.legal = true := by decide
theorem test_params_smallest : (Params.mk 4 528).legal = true := by decide
theorem test_params_largest : (Params.mk (2 ^ 27) (2 ^ 30)).legal = true := by decide
theorem test_params_ibuf_too_small : (Params.mk 0 32768).legal = false := by decide
theorem test_params_ibuf_too_large : (Params.mk (2 ^ 27 + 4) (2 ^ 30)).legal = false := by decide
theorem test_params_ibuf_not_words : (Params.mk 4098 65536).legal = false := by decide
theorem test_params_obuf_not_words : (Params.mk 4096 32770).legal = false := by decide
theorem test_params_obuf_too_large : (Params.mk 4096 (2 ^ 30 + 4)).legal = false := by decide
theorem test_params_obuf_below_eight : (Params.mk 4096 32764).legal = false := by decide
theorem test_params_obuf_below_header : (Params.mk 4 524).legal = false := by decide
theorem test_fields_reserved_op : (CmdFields.mk 0x3#4 0#28).legal = false := by decide
theorem test_fields_reserved_bits : (CmdFields.mk 0x1#4 1#28).legal = false := by decide
theorem test_fields_legal : (CmdFields.mk 0x2#4 0#28).legal = true := by decide

/-! ## Decoding: the words of R91, bit by bit, and the illegal words of R144 and CR7 to CR9 -/

theorem test_decode_nop : decode 0b00000000000000000000000000000000#32 = .ok .nop := by decide
theorem test_decode_compress : decode 0b00000000000000000000000000000001#32 = .ok .compress := by decide
theorem test_decode_decompress : decode 0b00000000000000000000000000000010#32 = .ok .decompress := by decide
theorem test_decode_three : decode 0x00000003#32 = .error .reservedOp := by decide
theorem test_decode_op_with_rsvd : decode 0x00000011#32 = .error .reservedBits := by decide
theorem test_decode_ones : decode 0xFFFFFFFF#32 = .error .reservedBits := by decide
theorem test_encode_compress : encode .compress = 0x00000001#32 := by decide
theorem test_table_word : decodeTableWord 32 2 = some .decompress := by decide

/-! ## Helpers -/

/-- A byte sequence from numbers. -/
def hex (l : List Nat) : List Byte := l.map (BitVec.ofNat 8)

/-- "zzz" -/
def zzz : List Byte := hex [0x7A, 0x7A, 0x7A]

/-- "ab" -/
def ab : List Byte := hex [0x61, 0x62]

/-- "aaaabbbccd" -/
def w1 : List Byte := hex [0x61, 0x61, 0x61, 0x61, 0x62, 0x62, 0x62, 0x63, 0x63, 0x64]

/-- The container V1. -/
def v1 : List Byte :=
  hex [0x48, 0x46, 0x43, 0x01, 0, 0, 0, 0x0A, 5, 3, 0x61, 1, 0x62, 2, 0x63, 3, 0x64, 3, 0x0A, 0xB6, 0xE0]

/-- The container V2. -/
def v2 : List Byte := hex [0x48, 0x46, 0x43, 0x01, 0, 0, 0, 3, 5, 0, 0x7A, 1, 0]

/-- An idle block with `bs` in IBUF as its input. -/
def loaded (bs : List Byte) : State :=
  (State.reset.setIbuf (Memory.ofBytes 0 bs)).setInLen (BitVec.ofNat 32 bs.length)

/-- The same block with a command running. -/
def running (p : Phase) (bs : List Byte) : State := (loaded bs).accept p

/-- An idle block with a result, collected or not. -/
def finished (r : Result) (done : Bool) : State := State.reset.setStatus { busy := false, done := done, result := r }

/-- A block whose environment does `e` next. -/
def facing (s : State) (e : Event) : State := s.setEnv [e]

/-- The state a step answers, or the reset state where it answers none. -/
def after (o : Host.Outcome State Fault Refusal) : State :=
  match o with
  | .next t => t
  | _ => State.reset

/-! ## Commands -/

theorem test_nop_keeps_done :
    (after (exec .nop (finished .illegalCommand true))).status.word = 0x42#32 := by decide
theorem test_nop_first : (after (step (State.reset.withFetchWord 32 0))).bus = some (.write .okay) := by decide
theorem test_compress_accepted :
    (after (step (State.reset.withFetchWord 32 1))).status.word = 0x01#32 := by decide
theorem test_compress_clears_outcome :
    (after (exec .compress ((finished .ok true).setOutLen 7))).outLen = 0 := by decide
theorem test_decompress_accepted :
    (after (step (State.reset.withFetchWord 32 2))).engine.phase = .decParse := by decide
theorem test_decompress_busy :
    (after (exec .decompress (running .encCount []))).bus = some (.write .slverr) := by decide
theorem test_illegal : (after (writeCmd 0x3#32 State.reset)).status.word = 0x42#32 := by decide
theorem test_illegal_busy : (after (writeCmd 0x3#32 (running .encCount []))).status.word = 0x01#32 := by decide

/-- V1 through the block: COMPRESS of "aaaabbbccd". -/
theorem test_complete_compress :
    (running .encCount w1).engineTurn.obuf = Memory.ofBytes 0 v1 := by decide +kernel
/-- V2 back: DECOMPRESS gives "zzz", STATUS 0x12. -/
theorem test_complete_decompress :
    (running .decParse v2).engineTurn.outcome = (0x12#32, 3#32, zzz) := by decide +kernel
/-- E3: the first 9 bytes of V1 give RESULT 2. -/
theorem test_complete_format_error :
    (running .decParse (v1.take 9)).engineTurn.outcome = (0x22#32, 0#32, []) := by decide +kernel
/-- E4: V1 followed by 00 gives RESULT 3. -/
theorem test_complete_corrupt :
    (running .decParse (v1 ++ [0])).engineTurn.outcome = (0x32#32, 0#32, []) := by decide +kernel

/-! ## Encoder (families TB, CC, BP, CW) -/

theorem test_encode_empty : huffEncode [] = hex [0x48, 0x46, 0x43, 0x01, 0, 0, 0, 0] := by decide
/-- V2: one symbol. -/
theorem test_encode_one_symbol : huffEncode zzz = v2 := by decide +kernel
/-- V5 and TB2, "abccdd": a leaf precedes an internal node of equal weight. -/
theorem test_encode_tie : huffEncode (hex [0x61, 0x62, 0x63, 0x63, 0x64, 0x64]) =
    hex [0x48, 0x46, 0x43, 0x01, 0, 0, 0, 6, 4, 3, 0x61, 2, 0x62, 2, 0x63, 2, 0x64, 2, 0x1A, 0xF0] := by decide +kernel
/-- TB6 and V10, "aaaaaaaabbbbbbbbccccdde": of equal leaves the lower symbol goes first. -/
theorem test_encode_equal_leaves :
    huffEncode (List.replicate 8 0x61 ++ List.replicate 8 0x62 ++ List.replicate 4 0x63 ++ hex [0x64, 0x64, 0x65]) =
    hex [0x48, 0x46, 0x43, 0x01, 0, 0, 0, 0x17, 0, 4, 0x61, 2, 0x62, 1, 0x63, 3, 0x64, 4, 0x65, 4,
      0xAA, 0xAA, 0, 0xDB, 0x6E, 0xEF] := by decide +kernel
/-- TB1: the merges of "aaaabbbccd". -/
theorem test_tree_merges : (buildTree (freqOf w1) [0x61, 0x62, 0x63, 0x64]).drop 4 =
    [.inner 3 3 2, .inner 6 1 4, .inner 10 0 5] := by decide +kernel
/-- CC4: canonical codes of lengths 2 1 3 4 4. -/
theorem test_canonical_codes : canonCodes [2, 1, 3, 4, 4] = [2, 0, 6, 14, 15] := by decide +kernel
/-- BP1: the body of V1. -/
theorem test_pack : packBits [false, false, false, false, true, false, true, false, true, false, true, true, false,
    true, true, false, true, true, true] 0 0 = hex [0x0A, 0xB6, 0xE0] := by decide

/-! ## Decoder (families DO, DE) -/

/-- DO1: pad bits are not examined. -/
theorem test_decode_pad_bits : huffDecode (v1.take 20 ++ [0xFF]) = .ok w1 := by decide +kernel
/-- DO2: eight bits, no pad. -/
theorem test_decode_no_pad : huffDecode (hex [0x48, 0x46, 0x43, 0x01, 0, 0, 0, 8, 0, 0, 0x7A, 1, 0]) =
    .ok (List.replicate 8 0x7A) := by decide +kernel
/-- E7: N = 0 and a ninth byte. -/
theorem test_decode_trailing_data : huffDecode (hex [0x48, 0x46, 0x43, 0x01, 0, 0, 0, 0, 0]) =
    .error (.corrupt .trailingData) := by decide
/-- E6: another version. -/
theorem test_decode_bad_tag : huffDecode (v1.set 3 2) = .error (.containerFormat .badTag) := by decide +kernel
/-- E2: a cut symbol table. -/
theorem test_decode_short_table : huffDecode (v1.take 15) = .error (.containerFormat .shortSymtab) := by decide +kernel
/-- E5: PAD = 8. -/
theorem test_decode_bad_pad : huffDecode (v1.set 8 8) = .error (.corrupt .badPad) := by decide +kernel
/-- E13: a length of 0. -/
theorem test_decode_zero_length :
    huffDecode (hex [0x48, 0x46, 0x43, 0x01, 0, 0, 0, 2, 6, 1, 0x61, 0, 0x62, 1, 0x40]) =
    .error (.corrupt .zeroLength) := by decide +kernel
/-- E11: a symbol twice. -/
theorem test_decode_symbol_order :
    huffDecode (hex [0x48, 0x46, 0x43, 0x01, 0, 0, 0, 2, 6, 1, 0x61, 1, 0x61, 1, 0x40]) =
    .error (.corrupt .symbolOrder) := by decide +kernel
/-- E10: an incomplete code. -/
theorem test_decode_incomplete :
    huffDecode (hex [0x48, 0x46, 0x43, 0x01, 0, 0, 0, 2, 6, 1, 0x61, 1, 0x62, 2, 0x40]) =
    .error (.corrupt .incompleteCode) := by decide +kernel
/-- E14: header only. -/
theorem test_decode_no_bits : huffDecode (v1.take 18) = .error (.corrupt .noBits) := by decide +kernel
/-- E1: a byte short. -/
theorem test_decode_out_of_bits : huffDecode (v1.take 20) = .error (.corrupt .outOfBits) := by decide +kernel
/-- E8: bit 1 in a one-symbol stream. -/
theorem test_decode_fell_off : huffDecode (v2.set 12 0x20) = .error (.corrupt .fellOff) := by decide +kernel
/-- E20: a data bit too many. -/
theorem test_decode_trailing_bits : huffDecode (v2.set 8 4) = .error (.corrupt .trailingBits) := by decide +kernel

/-! ## Registers and the bus (family CR) -/

theorem test_status_write :
    (after ((finished .ok true).transact (.write 0x14#32 0xFFFFFFFF#32))).status.word = 0x10#32 := by decide
theorem test_status_write_zero :
    (after ((finished .ok true).transact (.write 0x14#32 0xFFFFFFFD#32))).status.word = 0x12#32 := by decide
theorem test_ctrl_write :
    (after (State.reset.transact (.write 0x0C#32 0xFFFFFFFF#32))).readAnswer 0x0C#32 = .read .okay 1#32 := by decide
theorem test_irq_raised : (after ((finished .ok true).transact (.write 0x0C#32 1#32))).irq = true := by decide
theorem test_in_len_largest : (after (State.reset.transact (.write 0x18#32 0x1000#32))).inLen = 0x1000#32 := by decide
theorem test_in_len_too_large :
    (after (State.reset.transact (.write 0x18#32 0x1001#32))).bus = some (.write .slverr) := by decide
theorem test_ibuf_write :
    (after (State.reset.transact (.write 0x40000004#32 0x44332211#32))).ibuf =
      [(4, 0x11#8), (5, 0x22#8), (6, 0x33#8), (7, 0x44#8)] := by decide
theorem test_ibuf_read : (loaded v1).readAnswer 0x40000010#32 = .read .okay 0xB60A0364#32 := by decide +kernel
theorem test_obuf_read_compressed :
    ((loaded []).publish .ok v1 Engine.reset).readAnswer 0x80000000#32 = .read .okay 0x01434648#32 := by decide +kernel
theorem test_misaligned : State.reset.readAnswer 0x00000002#32 = .read .slverr 0#32 := by decide
theorem test_beyond_registers : State.reset.readAnswer 0x00000020#32 = .read .slverr 0#32 := by decide
theorem test_region_three : State.reset.readAnswer 0xC0000000#32 = .read .slverr 0#32 := by decide
theorem test_beyond_ibuf : State.reset.readAnswer 0x40001000#32 = .read .slverr 0#32 := by decide
theorem test_last_ibuf_word : locate Config.resetParams 0x40000FFC#32 = .ibuf 0xFFC := by decide
theorem test_last_obuf_word : locate Config.resetParams 0x80007FFC#32 = .obuf 0x7FFC := by decide
theorem test_beyond_obuf : locate Config.resetParams 0x80008000#32 = .unmapped := by decide
theorem test_busy_window : (running .encCount v1).readAnswer 0x40000000#32 = .read .slverr 0#32 := by decide +kernel
/-- CR35: a reset while a command runs. -/
theorem test_reset_cancels :
    stepN 3 ((running .encCount v1).setEnv [.rst false, .engine, .rst true]) =
      .next (State.afterReset Config.resetParams 1 []) := by rfl
theorem test_host_in_reset :
    step (facing (State.reset.setRstN false) (.host (.read 0#32))) = .refused .hostAccessInReset := by rfl

/-! ## Witnesses: for each statement with hypotheses, a state and operands that meet them -/

/-- A block with a small input in IBUF and a command running meets the invariant. -/
theorem running_inv (p : Phase) (hp : p = .encCount ∨ p = .decParse) (bs : List Byte) (hn : bs.length ≤ 4096)
    (hw : (Memory.ofBytes 0 bs).wf) (hi : ∀ c ∈ Memory.ofBytes 0 bs, c.1 < 4096) : (running p bs).Inv where
  params := (by decide : Config.resetParams.legal = true)
  idle := by rcases hp with rfl | rfl <;> simp [running, Status.accepted]
  running := fun _ => hp
  inLen := by
    have h : (BitVec.ofNat 32 bs.length).toNat ≤ 4096 := by simp; omega
    exact h
  pending := fun _ => rfl
  fresh := fun _ => rfl
  outLen := fun _ => rfl
  ibuf := hw
  obuf := Memory.wf_nil
  ibufInside := hi
  draws := Nat.le_refl _
  sized := ⟨List.length_replicate, List.length_replicate, List.length_replicate⟩

/-- The same block before the command. -/
theorem loaded_inv (bs : List Byte) (hn : bs.length ≤ 4096)
    (hw : (Memory.ofBytes 0 bs).wf) (hi : ∀ c ∈ Memory.ofBytes 0 bs, c.1 < 4096) : (loaded bs).Inv where
  params := (by decide : Config.resetParams.legal = true)
  idle := ⟨fun _ => rfl, fun _ => rfl⟩
  running := fun h => by simp [loaded] at h
  inLen := by
    have h : (BitVec.ofNat 32 bs.length).toNat ≤ 4096 := by simp; omega
    exact h
  pending := fun h => by simp [loaded] at h
  fresh := fun _ => rfl
  outLen := fun _ => rfl
  ibuf := hw
  obuf := Memory.wf_nil
  ibufInside := hi
  draws := Nat.le_refl _
  sized := ⟨List.length_replicate, List.length_replicate, List.length_replicate⟩

theorem running_zzz_inv : (running .encCount zzz).Inv :=
  running_inv _ (.inl rfl) _ (by decide) (by decide) (by decide)
theorem running_v2_inv : (running .decParse v2).Inv :=
  running_inv _ (.inr rfl) _ (by decide) (by decide) (by decide)
theorem loaded_zzz_inv : (loaded zzz).Inv := loaded_inv _ (by decide) (by decide) (by decide)
theorem loaded_v2_inv : (loaded v2).Inv := loaded_inv _ (by decide) (by decide) (by decide)

theorem witness_IllegalWordsRejected : State.reset.status.busy = false ∧ ∃ e, decode 0x3#32 = .error e :=
  ⟨rfl, .reservedOp, by decide⟩
theorem witness_CommandEncodeDecode : Instr.decompress.wf = true ∧ decode 0x2#32 = .ok .decompress := by decide
theorem witness_StepRunsDecodedCommand :
    (facing State.reset (.host (.write 0x10#32 1#32))).env = [.host (.write 0x10#32 1#32)] ∧
    (facing State.reset (.host (.write 0x10#32 1#32))).rstN = true ∧ decode 1#32 = .ok .compress :=
  ⟨rfl, rfl, by decide⟩
theorem witness_FetchWordIsTheNextCommand : decodeTableWord 32 1 = some .compress := by decide
theorem witness_NopCompletes : State.reset.status.busy = false ∧ (running .encCount []).status.busy = true := ⟨rfl, rfl⟩
theorem witness_CompressIsAccepted : (loaded v1).status.busy = false := rfl
theorem witness_DecompressIsAccepted : (loaded v2).status.busy = false := rfl
theorem witness_CommandFrame :
    (∃ t, exec .compress State.reset = .next t) ∧ (∃ t, exec .decompress State.reset = .next t) ∧
    (∃ t, exec .nop State.reset = .next t) ∧ ∃ t, exec .compress (running .encCount []) = .next t :=
  ⟨⟨_, rfl⟩, ⟨_, rfl⟩, ⟨_, rfl⟩, ⟨_, rfl⟩⟩
theorem witness_IllegalCommandIsTaken :
    (facing State.reset (.host (.write 0x10#32 3#32))).env = [.host (.write 0x10#32 3#32)] ∧
    (facing State.reset (.host (.write 0x10#32 3#32))).rstN = true ∧
    (facing State.reset (.host (.write 0x10#32 3#32))).status.busy = false ∧
    3#32 ≠ 0x00000000#32 ∧ 3#32 ≠ 0x00000001#32 ∧ 3#32 ≠ 0x00000002#32 :=
  ⟨rfl, rfl, rfl, by decide, by decide, by decide⟩
theorem witness_CmdWriteWhileBusy :
    (facing (running .encCount v1) (.host (.write 0x10#32 1#32))).env = [.host (.write 0x10#32 1#32)] ∧
    (facing (running .encCount v1) (.host (.write 0x10#32 1#32))).rstN = true ∧
    (facing (running .encCount v1) (.host (.write 0x10#32 1#32))).status.busy = true := ⟨rfl, rfl, rfl⟩
theorem witness_EngineStepCompletes :
    (facing (running .encCount v1) .engine).env = [.engine] ∧ (facing (running .encCount v1) .engine).rstN = true ∧
    (facing (running .encCount v1) .engine).status.busy = true ∧
    (facing (loaded v1) .engine).status.busy = false ∧ (running .encCount v1).env = [] ∧ (loaded v1).env = [] :=
  ⟨rfl, rfl, rfl, rfl, rfl, rfl⟩
theorem witness_CompressUnderAnyHostTraffic :
    (loaded zzz).Inv ∧ (loaded zzz).status.busy = false ∧ (loaded zzz).rstN = true ∧
    ∀ e ∈ [Event.host (.read 0x14#32), .host (.write 0x10#32 1#32)], e.isHost = true :=
  ⟨loaded_zzz_inv, rfl, rfl, by decide⟩
theorem witness_DecompressUnderAnyHostTraffic :
    (loaded v2).Inv ∧ (loaded v2).status.busy = false ∧ (loaded v2).rstN = true ∧
    (∀ e ∈ [Event.host (.write 0x40000000#32 0#32)], e.isHost = true) ∧
    huffDecode (loaded v2).input = .ok zzz ∧
    huffDecode (loaded []).input = .error (.containerFormat .shortHeader) ∧
    huffDecode (loaded (v1.take 18)).input = .error (.corrupt .noBits) :=
  ⟨loaded_v2_inv, rfl, rfl, by decide, by decide +kernel, by decide, by decide +kernel⟩
theorem witness_ErrorEndsTheCommand :
    (running .decParse []).rstN = true ∧ (running .decParse []).status.busy = true ∧
    (running .decParse []).engine.phase = .decParse ∧
    huffDecode (running .decParse []).input = .error (.containerFormat .shortHeader) ∧
    huffDecode (running .decParse (v1.take 18)).input = .error (.corrupt .noBits) :=
  ⟨rfl, rfl, rfl, by decide, by decide +kernel⟩
theorem witness_CompletionComes :
    (facing (running .encCount []) (.host (.read 0#32))).rstN = true ∧
    (facing (running .encCount []) (.host (.read 0#32))).status.busy = true ∧
    ∀ e ∈ (facing (running .encCount []) (.host (.read 0#32))).env, e.isRst = false :=
  ⟨rfl, rfl, by decide⟩
theorem witness_OutcomeDependsOnInputOnly :
    (running .encCount v2).engine.phase.isEncoder = ((running .encCount v2).setIrqEn true).engine.phase.isEncoder ∧
    (running .encCount v2).input = ((running .encCount v2).setIrqEn true).input := ⟨rfl, rfl⟩
theorem witness_WorkingTablesUnobservable :
    { (running .encCount v2).engine with acc := 5 }.phase = (running .encCount v2).engine.phase ∧
    ∃ t, step (running .encCount v2) = .next t := ⟨rfl, _, rfl⟩
theorem witness_WorkingRegistersAfterCommand :
    (running .encCount zzz).Inv ∧ (running .encCount zzz).rstN = true ∧
    (running .encCount zzz).status.busy = true ∧ (running .encCount zzz).engine.phase = .encCount ∧
    (running .encCount zzz).input ≠ [] ∧ (running .decParse v2).Inv ∧
    (running .decParse v2).engine.phase = .decParse ∧
    parse (running .decParse v2).input = .ok (.stream 3 (lenTable [(0x7A, 1)]) [false, false, false]) :=
  ⟨running_zzz_inv, rfl, rfl, rfl, by decide, running_v2_inv, rfl, by decide +kernel⟩
theorem witness_ResetState : Config.resetParams.legal = true := by decide
theorem witness_ResetCancels :
    ((running .encCount v1).setEnv [.rst false, .engine, .engine, .rst true]).env =
      .rst false :: (List.replicate 2 .engine ++ .rst true :: []) := rfl
theorem witness_ResetMeetsInvariant : (Params.mk 4 528).legal = true := by decide
theorem witness_StepKeepsInvariant : (loaded v2).Inv ∧ ∃ t, step (loaded v2) = .next t := ⟨loaded_v2_inv, _, rfl⟩
theorem witness_StepKeepsOutputInside :
    (running .decParse v2).Inv ∧ (running .decParse v2).OutputInside ∧ ∃ t, step (running .decParse v2) = .next t :=
  ⟨running_v2_inv, ⟨Nat.zero_le _, by decide, fun j h => absurd h (Nat.not_lt_zero j)⟩, _, rfl⟩
theorem witness_HostInResetIsRefused :
    (facing (State.reset.setRstN false) (.host (.read 0#32))).env = [.host (.read 0#32)] ∧
    (facing (State.reset.setRstN false) (.host (.read 0#32))).rstN = false ∧
    (facing State.reset (.host (.read 0#32))).rstN = true := ⟨rfl, rfl, rfl⟩
/-- Idle states with each result, its DONE set or cleared, meet the invariant. -/
theorem finished_inv (r : Result) (d : Bool) (h : r ≠ .none) : (finished r d).Inv where
  params := (by decide : Config.resetParams.legal = true)
  idle := ⟨fun _ => rfl, fun _ => rfl⟩
  running := fun hb => by simp [finished] at hb
  inLen := Nat.zero_le _
  pending := fun hb => by simp [finished] at hb
  fresh := fun hr => absurd hr h
  outLen := fun _ => rfl
  ibuf := Memory.wf_nil
  obuf := Memory.wf_nil
  ibufInside := by simp [finished]
  draws := Nat.le_refl _
  sized := ⟨List.length_replicate, List.length_replicate, List.length_replicate⟩
theorem witness_StatusWordValues :
    (loaded zzz).Inv ∧ (loaded zzz).status.busy = false ∧ (loaded zzz).status.result = .none ∧
    (running .encCount zzz).Inv ∧ (running .encCount zzz).status.busy = true ∧
    (finished .ok true).Inv ∧ (finished .containerFormatError false).Inv ∧ (finished .corruptStream true).Inv ∧
    (finished .illegalCommand true).Inv ∧ (finished .illegalCommand true).status.busy = false :=
  ⟨loaded_zzz_inv, rfl, rfl, running_zzz_inv, rfl, finished_inv _ _ (by decide), finished_inv _ _ (by decide),
    finished_inv _ _ (by decide), finished_inv _ _ (by decide), rfl⟩
theorem witness_IrqFollowsDone :
    State.reset.status.busy = false ∧ decode 0xFFFFFFFF#32 = .error .reservedBits ∧ Instr.compress ≠ .nop :=
  ⟨rfl, by decide, by decide⟩
theorem witness_StatusWrite :
    (0x2#32 : Word).getLsbD 1 = true ∧ (0xFFFFFFFD#32 : Word).getLsbD 1 = false ∧
    (running .encCount zzz).Inv ∧ (running .encCount zzz).status.busy = true :=
  ⟨by decide, by decide, running_zzz_inv, rfl⟩
theorem witness_InLenWrite :
    State.reset.params.ibufSize < (0x1001#32 : Word).toNat ∧ (running .encCount []).status.busy = true ∧
    State.reset.status.busy = false ∧ (0x1000#32 : Word).toNat ≤ State.reset.params.ibufSize :=
  ⟨by decide, rfl, rfl, by decide⟩
theorem witness_ReadOnlyWrites :
    State.reset.params.legal = true ∧ (0x80007FFC#32 : Word).toNat = 0x80000000 + 4 * 0x1FFF ∧
    4 * 0x1FFF < State.reset.params.obufSize ∧ State.reset.status.busy = false ∧
    (running .encCount []).status.busy = true := ⟨by decide, by decide, by decide, rfl, rfl⟩
theorem witness_IbufWindowWrite :
    State.reset.params.legal = true ∧ (0x40000FFC#32 : Word).toNat = 0x40000000 + 4 * 0x3FF ∧
    4 * 0x3FF < State.reset.params.ibufSize ∧ State.reset.status.busy = false ∧
    (running .encCount []).status.busy = true := ⟨by decide, by decide, by decide, rfl, rfl⟩
theorem witness_WindowRead :
    State.reset.params.legal = true ∧ (0x40000000#32 : Word).toNat = 0x40000000 + 4 * 0 ∧
    4 * 0 < State.reset.params.ibufSize ∧ (0x80007FFC#32 : Word).toNat = 0x80000000 + 4 * 0x1FFF ∧
    4 * 0x1FFF < State.reset.params.obufSize ∧ State.reset.status.busy = false ∧
    (running .encCount []).status.busy = true := ⟨by decide, by decide, by decide, by decide, by decide, rfl, rfl⟩
theorem witness_WriteThenRead :
    State.reset.params.legal = true ∧ State.reset.status.busy = false ∧ (0x40000FFC#32 : Word).toNat % 4 = 0 ∧
    0x40000000 ≤ (0x40000FFC#32 : Word).toNat ∧
    (0x40000FFC#32 : Word).toNat < 0x40000000 + State.reset.params.ibufSize ∧
    ∃ t, State.reset.transact (.write 0x40000FFC#32 1#32) = .next t :=
  ⟨by decide, rfl, by decide, by decide, by decide, _, rfl⟩
theorem witness_ReadsChangeNothing : ∃ t, State.reset.transact (.read 0x14#32) = .next t := ⟨_, rfl⟩

/-- Each way to be rejected, at the edges of the address ranges. -/
theorem witness_SlverrExactly_rejected :
    State.reset.params.legal = true ∧ State.reset.rejects (.read 0x00000002#32) ∧
    State.reset.rejects (.read 0x00000020#32) ∧ State.reset.rejects (.read 0x3FFFFFFC#32) ∧
    State.reset.rejects (.read 0x40001000#32) ∧ State.reset.rejects (.write 0x80008000#32 0#32) ∧
    State.reset.rejects (.read 0xC0000000#32) ∧ State.reset.rejects (.read 0xFFFFFFFC#32) ∧
    (running .encCount []).rejects (.read 0x40000FFC#32) ∧ (running .encCount []).rejects (.write 0x10#32 0#32) ∧
    (running .encCount []).rejects (.write 0x18#32 0#32) ∧ State.reset.rejects (.write 0x18#32 0x1001#32) := by
  refine ⟨by decide, ?_, ?_, ?_, ?_, ?_, ?_, ?_, ?_, ?_, ?_, ?_⟩ <;>
    simp [State.rejects, inWindow, Transaction.addr, running, loaded, Config.resetParams, Status.accepted]
/-- Each range of addresses that is not rejected, at its edges. -/
theorem witness_SlverrExactly_accepted :
    ¬ State.reset.rejects (.read 0x00000000#32) ∧ ¬ State.reset.rejects (.read 0x0000001C#32) ∧
    ¬ State.reset.rejects (.write 0x40000FFC#32 0#32) ∧ ¬ State.reset.rejects (.read 0x80000000#32) ∧
    ¬ State.reset.rejects (.read 0x80007FFC#32) ∧ ¬ State.reset.rejects (.write 0x18#32 0x1000#32) ∧
    ¬ (running .encCount []).rejects (.write 0x14#32 2#32) := by
  refine ⟨?_, ?_, ?_, ?_, ?_, ?_, ?_⟩ <;>
    simp [State.rejects, inWindow, Transaction.addr, running, loaded, Config.resetParams, Status.accepted]
theorem witness_BusyLockout :
    (running .encCount []).params.legal = true ∧ (running .encCount []).status.busy = true ∧
    (0x80007FFC#32 : Word).toNat % 4 = 0 ∧ inWindow (running .encCount []).params (0x80007FFC#32 : Word).toNat ∧
    inWindow (running .encCount []).params (0x40000FFC#32 : Word).toNat :=
  ⟨by decide, rfl, by decide, .inr (by decide), .inl (by decide)⟩
/-- A step of each kind that changes BUSY, DONE, RESULT, OUT_LEN or IRQ_EN. -/
theorem witness_BusyDoneChangeOnlySo :
    (after (step (facing State.reset (.host (.write 0x10#32 1#32))))).status.busy = true ∧
    (after (step (facing (running .decParse []) .engine))).status = ⟨false, true, .containerFormatError⟩ ∧
    (after (step (facing State.reset (.host (.write 0x10#32 3#32))))).status.done = true ∧
    (after (step (facing (finished .ok true) (.host (.write 0x14#32 2#32))))).status.done = false ∧
    (after (step (facing (finished .ok true) (.host (.write 0x10#32 2#32))))).status.result = .none ∧
    (after (step (facing (running .encCount []) .engine))).outLen = 8#32 ∧
    (after (step (facing State.reset (.host (.write 0x0C#32 1#32))))).irqEn = true := by decide
/-- A step of each kind that changes IN_LEN, IBUF, its draw, or OBUF. -/
theorem witness_BuffersChangeOnlySo :
    (after (step (facing State.reset (.host (.write 0x18#32 5#32))))).inLen = 5#32 ∧
    (after (step (facing State.reset (.host (.write 0x40000000#32 5#32))))).ibuf ≠ [] ∧
    (after (step (facing (loaded [1#8]) (.host (.write 0x40000000#32 5#32))))).ibufByte 0 ≠
      (loaded [1#8]).ibufByte 0 ∧
    (after (step (facing (State.reset.setRstN false) (.rst true)))).ibufDraw ≠ State.reset.ibufDraw ∧
    (after (step (facing (running .encCount []) .engine))).obuf ≠ [] := by decide
theorem witness_CountIsOccurrences : zzz.length ≤ 2 ^ 27 := by decide
theorem witness_PresentSymbolsAscending : 1 ≤ zzz.length := by decide
theorem witness_MergeLoopOrder : 2 ≤ (inputSyms ab).length := by decide +kernel
theorem witness_EncoderWidths : ab.length ≤ 2 ^ 27 ∧ 2 ≤ (inputSyms ab).length := by decide +kernel
theorem witness_EncoderLengthsLegal :
    ab ≠ [] ∧ 0x61 ∈ inputSyms ab ∧ 0x62 ∈ inputSyms ab ∧ (inputSyms zzz).length = 1 := by decide +kernel
/-- CC1 as a table of 256 lengths. -/
def cc1 : List Nat := lenTable [(0x61, 1), (0x62, 2), (0x63, 3), (0x64, 3)]
theorem witness_CanonicalCodesPrefixFree :
    legalLengths cc1 = true ∧ 0 < tableAt cc1 0x63 ∧ 0 < tableAt cc1 0x64 ∧
    legalLengths (lenTable [(0x7A, 1)]) = true ∧ presentLengths (lenTable [(0x7A, 1)]) = [1] := by decide +kernel
theorem witness_CanonicalCodesConsecutive :
    legalLengths cc1 = true ∧ tableAt cc1 0x63 = tableAt cc1 0x64 ∧
    (∀ u, 0x63 < u → u < 0x64 → tableAt cc1 u ≠ tableAt cc1 0x63) ∧ tableAt cc1 0x61 < tableAt cc1 0x62 :=
  ⟨by decide +kernel, by decide +kernel, fun u h k => absurd k (by omega), by decide +kernel⟩
theorem witness_BitOrder : 23 < 8 * (hex [0x0A, 0xB6, 0xE0]).length ∧ 2 < tableAt cc1 0x63 := by decide +kernel
theorem witness_PackedBodyIsTheBitString : 0 < (packRest [true, false, true] 0 0).2 := by decide
theorem witness_CompressResultLength :
    (running .encCount v2).engine.phase.isEncoder = true ∧ (running .encCount v2).input ≠ [] := by decide +kernel
theorem witness_SingleSymbolSize : (1 : Nat) ≤ 3 ∧ 3 < 2 ^ 32 := by decide
theorem witness_EncodeBound :
    Config.resetParams.legal = true ∧ zzz.length ≤ Config.resetParams.ibufSize ∧ (inputSyms zzz).length = 1 := by
  decide +kernel
theorem witness_DecoderTreeIsTheCodeTrie :
    legalLengths cc1 = true ∧ 2 ≤ (presentLengths cc1).length ∧
    legalLengths (lenTable [(0x7A, 1)]) = true ∧ (presentLengths (lenTable [(0x7A, 1)])).length = 1 := by
  decide +kernel
theorem witness_DecodeErrorClass :
    origLen v2 = 3 ∧ v2.length = 13 ∧ symCount v2 = 1 ∧ origLen (hex [0x48, 0x46, 0x43, 0x01, 0, 0, 0, 0]) = 0 := by
  decide +kernel
theorem witness_DecodeBound :
    Config.resetParams.legal = true ∧ v2.length ≤ Config.resetParams.ibufSize ∧
    parse v2 = .ok (.stream 3 (lenTable [(0x7A, 1)]) [false, false, false]) := by decide +kernel
/-- DO3 beside V2: the pad bits differ. -/
theorem witness_PadBitsIgnored :
    v2.length = (v2.set 12 0x07).length ∧
    v2.take (10 + 2 * symCount v2) = (v2.set 12 0x07).take (10 + 2 * symCount v2) ∧
    (bytesBits (bodyBytes v2)).take (8 * (bodyBytes v2).length - padField v2) =
      (bytesBits (bodyBytes (v2.set 12 0x07))).take (8 * (bodyBytes v2).length - padField v2) := by decide +kernel
theorem witness_TruncationRejected :
    Config.resetParams.legal = true ∧ zzz.length ≤ Config.resetParams.ibufSize ∧ zzz ≠ [] ∧
    10 + 2 * (inputSyms zzz).length ≤ 12 ∧ 12 < (huffEncode zzz).length := by decide +kernel
theorem witness_RoundTrip : zzz.length < 2 ^ 32 := by decide
theorem witness_BlockRoundTrip :
    (loaded zzz).Inv ∧ (loaded v2).Inv ∧ (loaded zzz).rstN = true ∧ (loaded v2).rstN = true ∧
    (loaded zzz).status.busy = false ∧ (loaded v2).status.busy = false ∧
    exec .compress (loaded zzz) = .next (((loaded zzz).accept .encCount).respond (.write .okay)) ∧
    exec .decompress (loaded v2) = .next (((loaded v2).accept .decParse).respond (.write .okay)) ∧
    (loaded v2).input = (((loaded zzz).accept .encCount).respond (.write .okay)).engineTurn.output :=
  ⟨loaded_zzz_inv, loaded_v2_inv, rfl, rfl, rfl, rfl, rfl, rfl, by decide +kernel⟩

end Sys2Proof.Tests
end

