-- ==== Sys2Proof/Proofs/Scope.lean ====
section
/-! PROOF. The statements of 00_scope.md: a host event is its transaction, and every step keeps the invariant. The tables
of the engine keep their sizes through both commands; each update of the state keeps the invariant; a step is one of these
updates. -/

namespace Sys2Proof.Machine

/-! ## A host event -/

/-- Settles O25: with rst_n high the step is the transaction, which always answers (`State.transact_next`); with rst_n low
`State.happen` refuses it. -/
theorem hostInResetIsRefused : Obligations.HostInResetIsRefused := by
  intro s x rest henv
  refine ⟨fun hr => ?_, fun hr => ?_⟩
  · simp [step_cons s _ _ henv, State.happen, hr]
  · have hstep := step_host s x rest henv hr
    obtain ⟨t, ht⟩ := (s.setEnv rest).transact_next x
    exact ⟨hstep, t, hstep.trans ht⟩

/-! ## The tables over the 256 symbols -/

@[simp] theorem zeroTable_length : zeroTable.length = 256 := List.length_replicate

@[simp] theorem countInto_length (inp : List Byte) (freq : List Nat) : (countInto inp freq).length = freq.length := by
  induction inp generalizing freq with
  | nil => rfl
  | cons b rest ih => simp [countInto, ih]

@[simp] theorem freqOf_length (inp : List Byte) : (freqOf inp).length = 256 := by simp [freqOf]

/-- The loop of `lenTable` keeps its table's size. -/
@[simp] theorem foldl_set_length (pairs : List (Nat × Nat)) (t : List Nat) :
    (pairs.foldl (fun t p => t.set p.1 p.2) t).length = t.length := by
  induction pairs generalizing t with
  | nil => rfl
  | cons p rest ih => simp [ih]

@[simp] theorem lenTable_length (pairs : List (Nat × Nat)) : (lenTable pairs).length = 256 := by simp [lenTable]

@[simp] theorem huffLengths_length (freq syms : List Nat) : (huffLengths freq syms).length = 256 := by
  unfold huffLengths
  split <;> exact lenTable_length _

@[simp] theorem assignCodes_length (len next : List Nat) : (assignCodes len next).length = len.length := by
  induction len generalizing next with
  | nil => rfl
  | cons l rest ih => cases l <;> simp [assignCodes, ih]

@[simp] theorem canonCodes_length (len : List Nat) : (canonCodes len).length = len.length := assignCodes_length _ _

@[simp] theorem inputLengths_length (inp : List Byte) : (inputLengths inp).length = 256 := huffLengths_length _ _

@[simp] theorem inputCodes_length (inp : List Byte) : (inputCodes inp).length = 256 := by simp [inputCodes]

/-- ParseTable writes entries of its table and adds none (R227). -/
theorem parseTable_length {entries : List (Nat × Nat)} {prev : Option Nat} {len t : List Nat}
    (h : parseTable entries prev len = .ok t) : t.length = len.length := by
  induction entries generalizing prev len with
  | nil =>
    cases h
    rfl
  | cons e rest ih =>
    obtain ⟨sym, l⟩ := e
    simp only [parseTable] at h
    split_ifs at h
    simpa using ih h

theorem parseBody_stream_length {x : List Byte} {n : Nat} {len : List Nat} {bits : List Bool}
    (h : parseBody x = .ok (.stream n len bits)) : len.length = 256 := by
  unfold parseBody at h
  cases ht : parseTable (symEntries x) none zeroTable with
  | error c =>
    simp only [ht] at h
    split_ifs at h
  | ok t =>
    simp only [ht] at h
    split_ifs at h
    cases h
    simpa using parseTable_length ht

/-- A container that passes the checks gives a length for each of the 256 symbols (R227). -/
theorem parse_stream_length {x : List Byte} {n : Nat} {len : List Nat} {bits : List Bool}
    (h : parse x = .ok (.stream n len bits)) : len.length = 256 := by
  unfold parse at h
  split_ifs at h
  · cases h
  · exact parseBody_stream_length h

/-! ## The engine's tables keep their sizes -/

theorem Engine.reset_sized : Engine.reset.Sized :=
  ⟨List.length_replicate, List.length_replicate, List.length_replicate⟩

theorem Engine.Sized.setPhase {g : Engine} (h : g.Sized) (p : Phase) : { g with phase := p }.Sized := { h with }

theorem Engine.Sized.encCount {g : Engine} (h : g.Sized) (inp : List Byte) : (g.encCount inp).Sized :=
  { h with freq := by simp [Engine.encCount] }

theorem Engine.Sized.encBuild {g : Engine} (h : g.Sized) (inp : List Byte) : (g.encBuild inp).Sized :=
  { h with len := by simp [Engine.encBuild] }

theorem Engine.Sized.encCodes {g : Engine} (h : g.Sized) (inp : List Byte) : (g.encCodes inp).Sized :=
  { h with code := by simp [Engine.encCodes] }

theorem Engine.Sized.encWrite {g : Engine} (h : g.Sized) (inp : List Byte) : (g.encWrite inp).Sized := { h with }

theorem Engine.Sized.runEncode {g : Engine} (h : g.Sized) (inp : List Byte) : (g.runEncode inp).Sized := by
  cases inp with
  | nil => exact h.encCount []
  | cons b rest => exact (((h.encCount _).encBuild _).encCodes _).encWrite _

theorem Engine.Sized.runDecode {g : Engine} (h : g.Sized) (x : List Byte) : (g.runDecode x).Sized := by
  unfold Engine.runDecode
  split
  · next n len bits hp =>
    have hlen : len.length = 256 := parse_stream_length hp
    exact
      { freq := h.freq
        len := by simp [Engine.decUnpack, Engine.decBuild, Engine.decParse, hlen]
        code := by simp [Engine.decUnpack, Engine.decBuild, hlen] }
  · exact h.setPhase .decParse

/-- The engine after a completion: the tables its command leaves, in phase IDLE (R146). -/
theorem State.complete_engine (s : State) :
    s.complete.engine =
      { (if s.engine.phase.isEncoder then s.engine.runEncode s.input else s.engine.runDecode s.input) with
        phase := .idle } := by
  unfold State.complete State.completeEncode State.completeDecode
  split
  · rfl
  · split <;> rfl

theorem Engine.Sized.complete {s : State} (h : s.engine.Sized) : s.complete.engine.Sized := by
  rw [s.complete_engine]
  split
  · exact (h.runEncode _).setPhase .idle
  · exact (h.runDecode _).setPhase .idle

/-! ## Each update keeps the invariant -/

/-- The reset state meets the invariant, for every legal pair of sizes (R46, R47). -/
theorem State.afterReset_inv {p : Params} (hp : p.legal = true) (draw : Nat) (env : List Event) :
    (State.afterReset p draw env).Inv where
  params := hp
  idle := by simp
  running := by simp
  inLen := by simp
  pending := by simp
  fresh := by simp
  outLen := by simp
  ibuf := Memory.wf_nil
  obuf := Memory.wf_nil
  ibufInside := by simp
  draws := Nat.le_refl _
  sized := Engine.reset_sized

theorem State.Inv.setEnv {s : State} (h : s.Inv) (e : List Event) : (s.setEnv e).Inv := { h with }

theorem State.Inv.respond {s : State} (h : s.Inv) (a : BusAnswer) : (s.respond a).Inv := { h with }

theorem State.Inv.setIrqEn {s : State} (h : s.Inv) (b : Bool) : (s.setIrqEn b).Inv := { h with }

theorem State.Inv.setRstN {s : State} (h : s.Inv) (b : Bool) : (s.setRstN b).Inv := { h with }

theorem State.Inv.setInLen {s : State} (h : s.Inv) {w : Word} (hw : w.toNat ≤ s.params.ibufSize) :
    (s.setInLen w).Inv := { h with inLen := hw }

/-- A write to STATUS can clear DONE and leaves BUSY and RESULT (R148). -/
theorem Status.afterWrite_cases (t : Status) (w : Word) :
    t.afterWrite w = { t with done := false } ∨ t.afterWrite w = t := by
  unfold Status.afterWrite
  split
  · exact .inl rfl
  · exact .inr rfl

theorem State.Inv.writeStatus {s : State} (h : s.Inv) (w : Word) : (s.writeStatus w).Inv := by
  unfold State.writeStatus
  rcases s.status.afterWrite_cases w with hw | hw <;> rw [hw]
  · exact { h with fresh := fun _ => rfl }
  · exact { h with }

/-- A window write stays in IBUF: the word's four bytes lie below IBUF_SIZE, which is a multiple of 4 (R8, R63). -/
theorem State.Inv.writeIbufWord {s : State} (h : s.Inv) {a : Word} {i : Nat} (hl : locate s.params a = .ibuf i)
    (w : Word) : (s.writeIbufWord i w).Inv := by
  obtain ⟨-, hi4, hi, -⟩ := (locate_ibuf_iff _ _ _).mp hl
  obtain ⟨-, -, hsize, -⟩ := (Params.legal_iff _).mp h.params
  refine { h with ibuf := s.writeIbufWord_wf i w h.ibuf, ibufInside := fun c hc => ?_ }
  show c.1 < s.params.ibufSize
  rcases s.mem_writeIbufWord i w c hc with ⟨_, hc⟩ | hc
  · omega
  · exact h.ibufInside c hc

theorem State.Inv.accept {s : State} (h : s.Inv) {p : Phase} (hp : p = .encCount ∨ p = .decParse) :
    (s.accept p).Inv :=
  { h with
    idle := by rcases hp with rfl | rfl <;> simp [Status.accepted]
    running := fun _ => hp
    pending := fun _ => rfl
    fresh := fun _ => rfl
    outLen := fun _ => rfl
    sized := h.sized.setPhase p }

/-- An illegal command is taken while idle only, so its RESULT 4 meets no running command (R144, R145). -/
theorem State.Inv.takeIllegal {s : State} (h : s.Inv) (hb : s.status.busy = false) : s.takeIllegal.Inv :=
  { h with
    pending := fun hb' => absurd (hb.symm.trans hb') (by decide)
    fresh := fun hr => nomatch hr
    outLen := fun _ => rfl }

theorem State.Inv.publish {s : State} (h : s.Inv) {r : Result} {out : List Byte} {g : Engine} (hr : r ≠ .none)
    (hout : r ≠ .ok → out = []) (hg : (s.publish r out g).engine.Sized) : (s.publish r out g).Inv :=
  { h with
    idle := by simp [Status.completed]
    running := by simp [Status.completed]
    pending := by simp [Status.completed]
    fresh := fun hn => absurd hn hr
    outLen := fun hok => by simp [hout hok]
    obuf := Memory.ofBytes_wf out 0
    draws := Nat.le_succ_of_le h.draws
    sized := hg }

theorem State.Inv.complete {s : State} (h : s.Inv) : s.complete.Inv := by
  have hsized := h.sized.complete
  obtain ⟨r, out, g, hr, hout, heq⟩ := s.complete_cases
  rw [heq] at hsized ⊢
  exact h.publish hr hout hsized

/-! ## Each kind of step keeps the invariant -/

theorem State.Inv.engineTurn {s : State} (h : s.Inv) : s.engineTurn.Inv := by
  rcases s.engineTurn_cases with ⟨-, heq⟩ | ⟨-, -, heq⟩ <;> rw [heq]
  · exact h
  · exact h.complete

theorem State.Inv.driveReset {s : State} (h : s.Inv) (level : Bool) : (s.driveReset level).Inv := by
  unfold State.driveReset
  split_ifs
  · exact h
  · exact State.afterReset_inv h.params _ _
  · exact h.setRstN false

theorem State.Inv.transact {s t : State} (h : s.Inv) {x : Transaction} (ht : s.transact x = .next t) : t.Inv := by
  rcases s.transact_cases x with ⟨a, heq⟩ | ⟨b, heq⟩ | ⟨w, heq⟩ | ⟨w, -, hw, heq⟩ | ⟨i, w, -, hl, heq⟩ |
      ⟨hb, heq | heq | heq⟩ <;> cases heq.symm.trans ht
  · exact h.respond _
  · exact (h.setIrqEn b).respond _
  · exact (h.writeStatus w).respond _
  · exact (h.setInLen hw).respond _
  · exact (h.writeIbufWord hl w).respond _
  · exact (h.accept (.inl rfl)).respond _
  · exact (h.accept (.inr rfl)).respond _
  · exact (h.takeIllegal hb).respond _

/-- Settles O23, by the kinds of step: the engine's turn, a level on rst_n, and a host transaction. -/
theorem stepKeepsInvariant : Obligations.StepKeepsInvariant := by
  intro s t h hstep
  rcases step_cases s t hstep with ⟨-, rfl⟩ | ⟨rest, -, rfl⟩ | ⟨level, rest, -, rfl⟩ | ⟨x, rest, -, -, hx⟩
  · exact h.engineTurn
  · exact (h.setEnv rest).engineTurn
  · exact (h.setEnv rest).driveReset level
  · exact (h.setEnv rest).transact hx

end Sys2Proof.Machine
end

/-! PROOF. The statements of 10_state.md: what reset leaves, what a command's outcome depends on, which events change a
register or a buffer, and what a command leaves in the working registers. For the last, every value must fit its register:
canonical codes fit while the Kraft sum is at most 1, the encoder's depths fill it exactly (the unmerged nodes of each moment
of the merge loop are a cut of the tree), and the decoder's tree stays small because its codes and its missing children share
it. -/

namespace Sys2Proof.Machine

/-! ## Reset -/

/-- A register is read at its own address, in any state (R20, R151). -/
theorem State.readAnswer_reg (s : State) (r : Reg) : s.readAnswer r.addr = .read .okay (s.readReg r) := by
  unfold State.readAnswer
  rw [(locate_reg_iff s.params r.addr r).mpr rfl]

/-- Settles O20: each register is read at its own address, and every field of the reset state is known. -/
theorem resetState : Obligations.ResetState := by
  intro p draw env _
  have read (r : Reg) := (State.afterReset p draw env).readAnswer_reg r
  have hctrl : ctrlWord false = 0#32 := by decide
  have hstatus : Status.word { busy := false, done := false, result := .none } = 0#32 := by decide
  exact ⟨read .id, read .ibufSize, read .obufSize, (read .ctrl).trans (congrArg _ hctrl), read .cmd,
    (read .status).trans (congrArg _ hstatus), read .inLen, read .outLen, rfl, rfl, fun _ => ⟨rfl, rfl⟩⟩

theorem State.afterReset_outputInside (p : Params) (draw : Nat) (env : List Event) :
    (State.afterReset p draw env).OutputInside where
  outLen := Nat.zero_le _
  stored := by simp
  defined := by simp

/-- Settles O22: the general reset state, of which `State.reset` is the one with the sizes of log entry 1. -/
theorem resetMeetsInvariant : Obligations.ResetMeetsInvariant :=
  ⟨fun p draw env hp => ⟨State.afterReset_inv hp draw env, State.afterReset_outputInside p draw env⟩,
    State.afterReset_inv (by decide) 0 [], State.afterReset_outputInside _ 0 []⟩

/-! ## The interrupt -/

/-- STATUS bit 1 is DONE (R27, R95). -/
@[simp] theorem Status.word_getElem_one (t : Status) : t.word[1] = t.done := by
  obtain ⟨busy, done, result⟩ := t
  cases busy <;> cases done <;> cases result <;> rfl

/-- CTRL bit 0 is IRQ_EN (R24). -/
@[simp] theorem ctrlWord_getElem_zero (b : Bool) : (ctrlWord b)[0] = b := by
  cases b <;> rfl

@[simp] theorem State.publish_irq (s : State) (r : Result) (out : List Byte) (g : Engine) :
    (s.publish r out g).irq = s.irqEn := by
  simp [State.irq, Status.completed]

/-- Settles O28: irq reads DONE and IRQ_EN only; a completion and an illegal command set DONE, an acceptance clears it. -/
theorem irqFollowsDone : Obligations.IrqFollowsDone := by
  refine ⟨fun s => ?_, fun p draw env => rfl, fun s => ?_, fun s w e hb hd => ?_, fun s i hb hi => ?_⟩
  · simp [State.irq, State.readReg]
  · obtain ⟨r, out, g, -, -, heq⟩ := s.complete_cases
    rw [heq, State.publish_irq]
  · refine ⟨s.takeIllegal.respond (.write .okay), ?_, by simp [State.irq, Status.illegal]⟩
    simp [writeCmd, hd, execIllegal, s.onCommand_idle _ hb]
  · rcases exec_cases s i with ⟨hb', -⟩ | ⟨-, hn, -⟩ | ⟨-, -, h⟩ | ⟨-, -, h⟩
    · simp [hb] at hb'
    · exact absurd hn hi
    · exact ⟨_, h, by simp [State.irq, Status.accepted]⟩
    · exact ⟨_, h, by simp [State.irq, Status.accepted]⟩

/-! ## The outcome of a command -/

/-- OBUF after a completion: the bytes of the output, each one defined (R73, R146). -/
theorem State.publish_obufByte (s : State) (r : Result) (out : List Byte) (g : Engine) {j : Nat} (hj : j < out.length) :
    (s.publish r out g).obufByte j = out[j] := by
  simp [State.obufByte, hj]

/-- The output a host reads after a completion, cut where OUT_LEN's 32 bits wrap around. -/
@[simp] theorem State.publish_output (s : State) (r : Result) (out : List Byte) (g : Engine) :
    (s.publish r out g).output = out.take (out.length % 2 ^ 32) := by
  have hle : out.length % 2 ^ 32 ≤ out.length := Nat.mod_le _ _
  apply List.ext_getElem
  · simpa [State.output] using hle
  · intro j hj _
    have hj' : j < out.length % 2 ^ 32 := by simpa [State.output] using hj
    simp [State.output, s.publish_obufByte r out g (Nat.lt_of_lt_of_le hj' hle)]

/-- Publishing the same bytes with the same RESULT gives the same outcome, whatever else the states hold. -/
theorem State.publish_outcome_eq (s t : State) (r : Result) (out : List Byte) (g k : Engine) :
    (s.publish r out g).outcome = (t.publish r out k).outcome := by
  simp [State.outcome]

/-- Settles O17: a completion publishes a RESULT and bytes that are functions of the command and its input. -/
theorem outcomeDependsOnInputOnly : Obligations.OutcomeDependsOnInputOnly := by
  intro s t hphase hinput
  unfold State.complete
  rw [hphase]
  split
  · unfold State.completeEncode
    rw [hinput]
    exact State.publish_outcome_eq ..
  · unfold State.completeDecode
    rw [hinput]
    split <;> exact State.publish_outcome_eq ..

/-! ## The working state is unobservable -/

/-- `u` is `s` with another working state in the same phase. -/
def State.Twin (s u : State) : Prop := ∃ g : Engine, g.phase = s.engine.phase ∧ u = s.setEngine g

/-- What O18 asks of two states after a step. -/
theorem State.Twin.agree {t u : State} (h : t.Twin u) : u.setEngine t.engine = t ∧ u.engine.phase = t.engine.phase := by
  obtain ⟨g, hg, rfl⟩ := h
  exact ⟨rfl, hg⟩

/-- A completion reads the phase and the input, and overwrites the rest of the working state. -/
theorem State.Twin.complete {s u : State} (h : s.Twin u) : s.complete.Twin u.complete := by
  obtain ⟨g, hg, rfl⟩ := h
  have hinput : (s.setEngine g).input = s.input := rfl
  refine ⟨(s.setEngine g).complete.engine, by simp [State.complete_engine], ?_⟩
  unfold State.complete State.completeEncode State.completeDecode
  rw [State.setEngine_engine, hg, hinput]
  split
  · rfl
  · split <;> rfl

theorem State.Twin.engineTurn {s u : State} (h : s.Twin u) : s.engineTurn.Twin u.engineTurn := by
  have hcomplete := h.complete
  obtain ⟨g, hg, rfl⟩ := h
  unfold State.engineTurn
  rw [State.setEngine_rstN, State.setEngine_status]
  split
  · exact hcomplete
  · exact ⟨g, hg, rfl⟩

theorem State.Twin.driveReset {s u : State} (h : s.Twin u) (level : Bool) :
    (s.driveReset level).Twin (u.driveReset level) := by
  obtain ⟨g, hg, rfl⟩ := h
  unfold State.driveReset
  rw [State.setEngine_rstN]
  split_ifs
  · exact ⟨g, hg, rfl⟩
  · exact ⟨Engine.reset, rfl, rfl⟩
  · exact ⟨g, hg, rfl⟩

/-- A command's rejection while BUSY does not depend on the working state, so only its effect matters. -/
theorem State.Twin.onCommand {s u : State} (h : s.Twin u) {f : State → State} (hf : (f s).Twin (f u)) :
    (s.onCommand f).Twin (u.onCommand f) := by
  obtain ⟨g, hg, rfl⟩ := h
  obtain ⟨k, hk, heq⟩ := hf
  unfold State.onCommand
  rw [State.setEngine_status, heq]
  split
  · exact ⟨g, hg, rfl⟩
  · exact ⟨k, hk, rfl⟩

theorem State.Twin.accept {s u : State} (h : s.Twin u) (p : Phase) : (s.accept p).Twin (u.accept p) := by
  obtain ⟨g, -, rfl⟩ := h
  exact ⟨{ g with phase := p }, rfl, rfl⟩

theorem State.Twin.takeIllegal {s u : State} (h : s.Twin u) : s.takeIllegal.Twin u.takeIllegal := by
  obtain ⟨g, hg, rfl⟩ := h
  exact ⟨g, hg, rfl⟩

/-- Both outcomes are next states, and the next states are twins. -/
def TwinOutcomes (o p : Host.Outcome State Fault Refusal) : Prop := ∃ t u, o = .next t ∧ p = .next u ∧ t.Twin u

theorem State.Twin.next {t u : State} (h : t.Twin u) : TwinOutcomes (.next t) (.next u) := ⟨t, u, rfl, rfl, h⟩

theorem State.Twin.writeCmd {s u : State} (h : s.Twin u) (w : Word) : TwinOutcomes (writeCmd w s) (writeCmd w u) := by
  unfold Machine.writeCmd
  cases decode w with
  | error e => exact (h.onCommand h.takeIllegal).next
  | ok i =>
    cases i with
    | nop => exact (h.onCommand (f := id) h).next
    | compress => exact (h.onCommand (h.accept .encCount)).next
    | decompress => exact (h.onCommand (h.accept .decParse)).next

theorem State.Twin.writeInLen {s u : State} (h : s.Twin u) (w : Word) : (s.writeInLen w).Twin (u.writeInLen w) := by
  obtain ⟨g, hg, rfl⟩ := h
  unfold State.writeInLen
  rw [State.setEngine_status, State.setEngine_params]
  split <;> exact ⟨g, hg, rfl⟩

theorem State.Twin.writeReg {s u : State} (h : s.Twin u) (r : Reg) (w : Word) :
    TwinOutcomes (s.writeReg r w) (u.writeReg r w) := by
  cases r with
  | cmd => exact h.writeCmd w
  | inLen => exact (h.writeInLen w).next
  | id | ibufSize | obufSize | ctrl | status | outLen =>
    obtain ⟨g, hg, rfl⟩ := h
    exact State.Twin.next ⟨g, hg, rfl⟩

theorem State.Twin.writeWord {s u : State} (h : s.Twin u) (addr w : Word) :
    TwinOutcomes (s.writeWord addr w) (u.writeWord addr w) := by
  have hreg := h.writeReg
  obtain ⟨g, hg, rfl⟩ := h
  unfold State.writeWord
  rw [State.setEngine_params, State.setEngine_status]
  cases locate s.params addr with
  | reg r => exact hreg r w
  | obuf | misaligned | unmapped => exact State.Twin.next ⟨g, hg, rfl⟩
  | ibuf i =>
    refine State.Twin.next ?_
    split <;> exact ⟨g, hg, rfl⟩

theorem State.Twin.transact {s u : State} (h : s.Twin u) (x : Transaction) :
    TwinOutcomes (s.transact x) (u.transact x) := by
  cases x with
  | write addr w => exact h.writeWord addr w
  | read addr =>
    obtain ⟨g, hg, rfl⟩ := h
    exact State.Twin.next ⟨g, hg, rfl⟩

theorem State.Twin.setEnv {s u : State} (h : s.Twin u) (e : List Event) : (s.setEnv e).Twin (u.setEnv e) := by
  obtain ⟨g, hg, rfl⟩ := h
  exact ⟨g, hg, rfl⟩

/-- Settles O18: each kind of step takes twins to twins. -/
theorem workingTablesUnobservable : Obligations.WorkingTablesUnobservable := by
  intro s t g hg hstep
  have htwin : s.Twin (s.setEngine g) := ⟨g, hg, rfl⟩
  suffices h : ∃ u, step (s.setEngine g) = .next u ∧ t.Twin u by
    obtain ⟨u, hu, htu⟩ := h
    exact ⟨u, hu, htu.agree⟩
  rcases step_cases s t hstep with ⟨henv, rfl⟩ | ⟨rest, henv, rfl⟩ | ⟨level, rest, henv, rfl⟩ | ⟨x, rest, henv, hr, hx⟩
  · exact ⟨_, step_nil (s.setEngine g) henv, htwin.engineTurn⟩
  · exact ⟨_, step_engine (s.setEngine g) rest henv, (htwin.setEnv rest).engineTurn⟩
  · exact ⟨_, step_rst (s.setEngine g) level rest henv, (htwin.setEnv rest).driveReset level⟩
  · obtain ⟨t', u, ht', hu, htu⟩ := (htwin.setEnv rest).transact x
    cases hx.symm.trans ht'
    exact ⟨u, (step_host (s.setEngine g) x rest henv hr).trans hu, htu⟩

/-! ## What each event can change -/

/-- Decoding is an exact match (R91, R92). -/
theorem decode_cases (w : Word) :
    (w = 0x00000000#32 ∧ decode w = .ok .nop) ∨ (w = 0x00000001#32 ∧ decode w = .ok .compress) ∨
    (w = 0x00000002#32 ∧ decode w = .ok .decompress) ∨ (w ≠ 0x00000000#32 ∧ ∃ e, decode w = .error e) := by
  by_cases h0 : w = 0x00000000#32
  · exact .inl ⟨h0, by rw [h0]; rfl⟩
  by_cases h1 : w = 0x00000001#32
  · exact .inr (.inl ⟨h1, by rw [h1]; rfl⟩)
  by_cases h2 : w = 0x00000002#32
  · exact .inr (.inr (.inl ⟨h2, by rw [h2]; rfl⟩))
  · refine .inr (.inr (.inr ⟨h0, ?_⟩))
    simp only [decode, h0, h1, h2, if_false]
    split_ifs <;> exact ⟨_, rfl⟩

/-- The kinds of write to CMD: nothing but an answer, or, while idle, an accepted or an illegal command. -/
inductive CmdWriteKind (s : State) (w : Word) : State → Prop
  | answered (a : BusAnswer) : CmdWriteKind s w (s.respond a)
  | accepted (hb : s.status.busy = false) (hw : w = 0x00000001#32 ∨ w = 0x00000002#32) (p : Phase) (a : BusAnswer) :
      CmdWriteKind s w ((s.accept p).respond a)
  | illegal (hb : s.status.busy = false) (hw : w ≠ 0x00000000#32) (e : DecodeError) (he : decode w = .error e)
      (a : BusAnswer) : CmdWriteKind s w (s.takeIllegal.respond a)

theorem writeCmd_kind {s t : State} {w : Word} (h : writeCmd w s = .next t) : CmdWriteKind s w t := by
  cases hb : s.status.busy with
  | true =>
    rcases writeCmd_cases s w with ⟨-, heq⟩ | ⟨hb', -⟩ | ⟨hb', -⟩
    · cases heq.symm.trans h
      exact .answered _
    all_goals exact absurd (hb.symm.trans hb') (by decide)
  | false =>
    unfold writeCmd at h
    rcases decode_cases w with ⟨hw, hd⟩ | ⟨hw, hd⟩ | ⟨hw, hd⟩ | ⟨hw, e, hd⟩ <;> rw [hd] at h <;>
      cases (congrArg Host.Outcome.next (s.onCommand_idle _ hb)).symm.trans h
    · exact .answered _
    · exact .accepted hb (.inl hw) _ _
    · exact .accepted hb (.inr hw) _ _
    · exact .illegal hb hw e hd _

/-- The kinds of step, with the event of each: nothing but the answer, the waiting events and the pin changes; the engine
completes a command; a reset takes effect; or a host write changes a register or IBUF. -/
inductive StepKind (s : State) : State → Prop
  | quiet (e : List Event) (b : Option BusAnswer) (r : Bool) : StepKind s { s with env := e, bus := b, rstN := r }
  | complete (hb : s.status.busy = true) (henv : s.env = [] ∨ ∃ rest, s.env = .engine :: rest)
      (e : List Event) (r : Result) (out : List Byte) (g : Engine) : StepKind s ((s.setEnv e).publish r out g)
  | reset (rest : List Event) (henv : s.env = .rst true :: rest) (hr : s.rstN = false) :
      StepKind s (State.afterReset s.params (s.obufDraw + 1) rest)
  | ctrl (w : Word) (rest : List Event) (henv : s.env = .host (.write 0x0000000C#32 w) :: rest) (a : BusAnswer) :
      StepKind s (((s.setEnv rest).setIrqEn (w.getLsbD 0)).respond a)
  | status (w : Word) (rest : List Event) (henv : s.env = .host (.write 0x00000014#32 w) :: rest) (a : BusAnswer) :
      StepKind s (((s.setEnv rest).writeStatus w).respond a)
  | inLen (hb : s.status.busy = false) (w : Word) (rest : List Event)
      (henv : s.env = .host (.write 0x00000018#32 w) :: rest) (a : BusAnswer) :
      StepKind s (((s.setEnv rest).setInLen w).respond a)
  | ibuf (hb : s.status.busy = false) (addr w : Word) (rest : List Event)
      (henv : s.env = .host (.write addr w) :: rest) (i : Nat) (haddr : addr.toNat = 0x40000000 + i)
      (hi : i < s.params.ibufSize) (a : BusAnswer) : StepKind s (((s.setEnv rest).writeIbufWord i w).respond a)
  | cmd (w : Word) (rest : List Event) (henv : s.env = .host (.write 0x00000010#32 w) :: rest) (t : State)
      (h : CmdWriteKind (s.setEnv rest) w t) : StepKind s t

theorem engineTurn_kind (s : State) (henv : s.env = [] ∨ ∃ rest, s.env = .engine :: rest) (e : List Event) :
    StepKind s (s.setEnv e).engineTurn := by
  rcases (s.setEnv e).engineTurn_cases with ⟨-, heq⟩ | ⟨-, hb, heq⟩ <;> rw [heq]
  · exact .quiet e s.bus s.rstN
  · obtain ⟨r, out, g, -, -, heq'⟩ := (s.setEnv e).complete_cases
    rw [heq']
    exact StepKind.complete (s := s) hb henv e r out g

theorem driveReset_kind (s : State) {level : Bool} {rest : List Event} (henv : s.env = .rst level :: rest) :
    StepKind s ((s.setEnv rest).driveReset level) := by
  cases level with
  | false => exact .quiet rest s.bus false
  | true =>
    unfold State.driveReset
    rw [if_pos rfl]
    split
    · exact .quiet rest s.bus s.rstN
    · next hr => exact .reset rest henv (by simpa using hr)

theorem writeReg_kind {s t : State} {r : Reg} {w : Word} {rest : List Event}
    (henv : s.env = .host (.write r.addr w) :: rest) (h : (s.setEnv rest).writeReg r w = .next t) : StepKind s t := by
  cases r with
  | cmd => exact .cmd w rest henv t (writeCmd_kind h)
  | ctrl =>
    cases h
    exact .ctrl w rest henv _
  | status =>
    cases h
    exact .status w rest henv _
  | inLen =>
    cases h
    unfold State.writeInLen
    split
    · exact .quiet rest _ s.rstN
    · next hw => exact .inLen (by simp at hw; exact hw.1) w rest henv _
  | id | ibufSize | obufSize | outLen =>
    cases h
    exact .quiet rest _ s.rstN

theorem writeWord_kind {s t : State} {addr w : Word} {rest : List Event}
    (henv : s.env = .host (.write addr w) :: rest) (h : (s.setEnv rest).writeWord addr w = .next t) : StepKind s t := by
  unfold State.writeWord at h
  cases hl : locate s.params addr with
  | reg r =>
    obtain rfl := (locate_reg_iff _ _ _).mp hl
    rw [State.setEnv_params, hl] at h
    exact writeReg_kind henv h
  | ibuf i =>
    obtain ⟨haddr, -, hi, -⟩ := (locate_ibuf_iff _ _ _).mp hl
    rw [State.setEnv_params, hl] at h
    cases hb : s.status.busy with
    | true =>
      cases h
      simp only [State.setEnv_status, hb, if_true]
      exact .quiet rest _ s.rstN
    | false =>
      cases h
      simp only [State.setEnv_status, hb]
      exact .ibuf hb addr w rest henv i haddr hi _
  | obuf | misaligned | unmapped =>
    rw [State.setEnv_params, hl] at h
    cases h
    exact .quiet rest _ s.rstN

/-- Every step is of one of the kinds. -/
theorem step_kind {s t : State} (h : step s = .next t) : StepKind s t := by
  rcases step_cases s t h with ⟨henv, rfl⟩ | ⟨rest, henv, rfl⟩ | ⟨level, rest, henv, rfl⟩ | ⟨x, rest, henv, -, hx⟩
  · exact engineTurn_kind s (.inl henv) s.env
  · exact engineTurn_kind s (.inr ⟨rest, henv⟩) rest
  · exact driveReset_kind s henv
  · cases x with
    | read addr =>
      cases hx
      exact .quiet rest _ s.rstN
    | write addr w => exact writeWord_kind henv hx

/-! ## The registers -/

/-! A window write changes IBUF alone (R152). -/

section
variable (s : State) (i : Nat) (w : Word)

@[simp] theorem State.writeIbufWord_irqEn : (s.writeIbufWord i w).irqEn = s.irqEn := rfl
@[simp] theorem State.writeIbufWord_status : (s.writeIbufWord i w).status = s.status := rfl
@[simp] theorem State.writeIbufWord_inLen : (s.writeIbufWord i w).inLen = s.inLen := rfl
@[simp] theorem State.writeIbufWord_outLen : (s.writeIbufWord i w).outLen = s.outLen := rfl
@[simp] theorem State.writeIbufWord_obuf : (s.writeIbufWord i w).obuf = s.obuf := rfl
@[simp] theorem State.writeIbufWord_ibufDraw : (s.writeIbufWord i w).ibufDraw = s.ibufDraw := rfl
@[simp] theorem State.writeIbufWord_obufDraw : (s.writeIbufWord i w).obufDraw = s.obufDraw := rfl

end

/-- BUSY rises by an accepted command only. -/
theorem StepKind.busy_rises {s t : State} (h : StepKind s t) (hs : s.status.busy = false)
    (ht : t.status.busy = true) :
    ∃ w rest, s.env = .host (.write 0x00000010#32 w) :: rest ∧ (w = 0x00000001#32 ∨ w = 0x00000002#32) := by
  cases h with
  | cmd w rest henv t h =>
    cases h with
    | accepted _ hw => exact ⟨w, rest, henv, hw⟩
    | answered => simp_all
    | illegal => simp_all [Status.illegal]
  | status w =>
    rcases s.status.afterWrite_cases w with hw | hw <;> simp_all
  | _ => simp_all

/-- BUSY falls by the engine's turn or a reset only. -/
theorem StepKind.busy_falls {s t : State} (h : StepKind s t) (hs : s.status.busy = true)
    (ht : t.status.busy = false) :
    s.env = [] ∨ (∃ rest, s.env = .engine :: rest) ∨ ∃ rest, s.env = .rst true :: rest ∧ s.rstN = false := by
  cases h with
  | complete _ henv => exact henv.elim .inl fun henv => .inr (.inl henv)
  | reset rest henv hr => exact .inr (.inr ⟨rest, henv, hr⟩)
  | cmd w rest henv t h => cases h <;> simp_all
  | status w =>
    rcases s.status.afterWrite_cases w with hw | hw <;> simp_all
  | _ => simp_all

/-- DONE rises by a completion or an illegal command only. -/
theorem StepKind.done_rises {s t : State} (h : StepKind s t) (hs : s.status.done = false)
    (ht : t.status.done = true) :
    (s.status.busy = true ∧ (s.env = [] ∨ ∃ rest, s.env = .engine :: rest)) ∨
    (s.status.busy = false ∧ ∃ w rest e, s.env = .host (.write 0x00000010#32 w) :: rest ∧ decode w = .error e) := by
  cases h with
  | complete hb henv => exact .inl ⟨hb, henv⟩
  | cmd w rest henv t h =>
    cases h with
    | illegal hb _ e he => exact .inr ⟨hb, w, rest, e, henv, he⟩
    | answered => simp_all
    | accepted => simp_all [Status.accepted]
  | status w =>
    rcases s.status.afterWrite_cases w with hw | hw <;> simp_all
  | _ => simp_all

/-- DONE falls by a STATUS write with bit 1, an accepted command or a reset only. -/
theorem StepKind.done_falls {s t : State} (h : StepKind s t) (hs : s.status.done = true)
    (ht : t.status.done = false) :
    (∃ w rest, s.env = .host (.write 0x00000014#32 w) :: rest ∧ w.getLsbD 1 = true) ∨
    (∃ w rest, s.env = .host (.write 0x00000010#32 w) :: rest ∧ (w = 0x00000001#32 ∨ w = 0x00000002#32)) ∨
    ∃ rest, s.env = .rst true :: rest ∧ s.rstN = false := by
  cases h with
  | reset rest henv hr => exact .inr (.inr ⟨rest, henv, hr⟩)
  | cmd w rest henv t h =>
    cases h with
    | accepted _ hw => exact .inr (.inl ⟨w, rest, henv, hw⟩)
    | answered => simp_all
    | illegal => simp_all [Status.illegal]
  | status w rest henv =>
    refine .inl ⟨w, rest, henv, ?_⟩
    by_contra hw
    simp_all [Status.afterWrite]
  | _ => simp_all [Status.completed]

/-- RESULT and OUT_LEN change by a completion, an idle CMD write that is not NOP, or a reset only. -/
theorem StepKind.outcome_changes {s t : State} (h : StepKind s t)
    (hne : t.status.result ≠ s.status.result ∨ t.outLen ≠ s.outLen) :
    (s.status.busy = true ∧ (s.env = [] ∨ ∃ rest, s.env = .engine :: rest)) ∨
    (s.status.busy = false ∧ ∃ w rest, s.env = .host (.write 0x00000010#32 w) :: rest ∧ w ≠ 0x00000000#32) ∨
    ∃ rest, s.env = .rst true :: rest ∧ s.rstN = false := by
  cases h with
  | complete hb henv => exact .inl ⟨hb, henv⟩
  | reset rest henv hr => exact .inr (.inr ⟨rest, henv, hr⟩)
  | cmd w rest henv t h =>
    cases h with
    | accepted hb hw => exact .inr (.inl ⟨hb, w, rest, henv, by rcases hw with rfl | rfl <;> decide⟩)
    | illegal hb hw => exact .inr (.inl ⟨hb, w, rest, henv, hw⟩)
    | answered => simp at hne
  | status w =>
    rcases s.status.afterWrite_cases w with hw | hw <;> simp [hw] at hne
  | _ => simp at hne

/-- IRQ_EN changes to bit 0 of a word written to CTRL, or by a reset. -/
theorem StepKind.irqEn_changes {s t : State} (h : StepKind s t) (hne : t.irqEn ≠ s.irqEn) :
    (∃ w rest, s.env = .host (.write 0x0000000C#32 w) :: rest ∧ t.irqEn = w.getLsbD 0) ∨
    ∃ rest, s.env = .rst true :: rest ∧ s.rstN = false := by
  cases h with
  | reset rest henv hr => exact .inr ⟨rest, henv, hr⟩
  | ctrl w rest henv => exact .inl ⟨w, rest, henv, rfl⟩
  | cmd w rest henv t h => cases h <;> simp at hne
  | _ => simp at hne

theorem StepKind.params_kept {s t : State} (h : StepKind s t) : t.params = s.params := by
  cases h with
  | cmd w rest henv t h => cases h <;> rfl
  | _ => rfl

/-- Settles O39, one clause per lemma on the kinds of step. -/
theorem busyDoneChangeOnlySo : Obligations.BusyDoneChangeOnlySo := by
  intro s t hstep
  have h := step_kind hstep
  exact ⟨h.busy_rises, h.busy_falls, h.done_rises, h.done_falls, h.outcome_changes, h.irqEn_changes, h.params_kept⟩

/-! ## The buffers -/

theorem StepKind.inLen_changes {s t : State} (h : StepKind s t) (hne : t.inLen ≠ s.inLen) :
    (s.status.busy = false ∧ ∃ rest, s.env = .host (.write 0x00000018#32 t.inLen) :: rest) ∨
    ∃ rest, s.env = .rst true :: rest ∧ s.rstN = false := by
  cases h with
  | reset rest henv hr => exact .inr ⟨rest, henv, hr⟩
  | inLen hb w rest henv => exact .inl ⟨hb, rest, henv⟩
  | cmd w rest henv t h => cases h <;> simp at hne
  | _ => simp at hne

theorem StepKind.ibufDraw_changes {s t : State} (h : StepKind s t) (hne : t.ibufDraw ≠ s.ibufDraw) :
    ∃ rest, s.env = .rst true :: rest ∧ s.rstN = false := by
  cases h with
  | reset rest henv hr => exact ⟨rest, henv, hr⟩
  | cmd w rest henv t h => cases h <;> simp at hne
  | _ => simp at hne

theorem StepKind.ibuf_changes {s t : State} (h : StepKind s t) (hne : t.ibuf ≠ s.ibuf) :
    (s.status.busy = false ∧ ∃ a w rest, s.env = .host (.write a w) :: rest ∧ 0x40000000 ≤ a.toNat ∧
      a.toNat < 0x40000000 + s.params.ibufSize) ∨
    ∃ rest, s.env = .rst true :: rest ∧ s.rstN = false := by
  cases h with
  | reset rest henv hr => exact .inr ⟨rest, henv, hr⟩
  | ibuf hb addr w rest henv i haddr hi => exact .inl ⟨hb, addr, w, rest, henv, by omega, by omega⟩
  | cmd w rest henv t h => cases h <;> simp at hne
  | _ => simp at hne

/-- A byte of IBUF reads as something else after a write of its own word, or a reset, only. -/
theorem StepKind.ibufByte_changes {s t : State} (h : StepKind s t) (j : Nat) (hne : t.ibufByte j ≠ s.ibufByte j) :
    (s.status.busy = false ∧ ∃ a w rest, s.env = .host (.write a w) :: rest ∧ 0x40000000 ≤ a.toNat ∧
      a.toNat < 0x40000000 + s.params.ibufSize ∧ a.toNat ≤ 0x40000000 + j ∧ 0x40000000 + j < a.toNat + 4) ∨
    ∃ rest, s.env = .rst true :: rest ∧ s.rstN = false := by
  cases h with
  | reset rest henv hr => exact .inr ⟨rest, henv, hr⟩
  | ibuf hb addr w rest henv i haddr hi =>
    have hword : i ≤ j ∧ j < i + 4 := by
      by_contra hout
      refine hne ?_
      rw [State.respond_ibufByte, State.ibufByte_writeIbufWord, if_neg (by omega), if_neg (by omega),
        if_neg (by omega), if_neg (by omega), State.setEnv_ibufByte]
    exact .inl ⟨hb, addr, w, rest, henv, by omega, by omega, by omega, by omega⟩
  | cmd w rest henv t h => cases h <;> exact absurd rfl hne
  | _ => exact absurd rfl hne

theorem StepKind.obuf_changes {s t : State} (h : StepKind s t) (hne : t.obuf ≠ s.obuf ∨ t.obufDraw ≠ s.obufDraw) :
    (s.status.busy = true ∧ (s.env = [] ∨ ∃ rest, s.env = .engine :: rest)) ∨
    ∃ rest, s.env = .rst true :: rest ∧ s.rstN = false := by
  cases h with
  | complete hb henv => exact .inl ⟨hb, henv⟩
  | reset rest henv hr => exact .inr ⟨rest, henv, hr⟩
  | cmd w rest henv t h => cases h <;> simp at hne
  | _ => simp at hne

/-- Settles O40, one clause per lemma on the kinds of step. -/
theorem buffersChangeOnlySo : Obligations.BuffersChangeOnlySo := by
  intro s t hstep
  have h := step_kind hstep
  exact ⟨h.inLen_changes, h.ibuf_changes, h.ibufDraw_changes, h.ibufByte_changes, h.obuf_changes⟩

/-! ## Tables -/

theorem tableAt_eq_getElem {t : List Nat} {i : Nat} (h : i < t.length) : tableAt t i = t[i] := by
  simp [tableAt, h]

theorem tableAt_of_length_le {t : List Nat} {i : Nat} (h : t.length ≤ i) : tableAt t i = 0 := by
  simp [tableAt, h]

@[simp] theorem tableAt_cons_zero (x : Nat) (t : List Nat) : tableAt (x :: t) 0 = x := rfl

@[simp] theorem tableAt_cons_succ (x : Nat) (t : List Nat) (i : Nat) : tableAt (x :: t) (i + 1) = tableAt t i := rfl

/-- A bound on the entries bounds every value read, the 0 beyond the end included. -/
theorem tableAt_le_of_forall_mem {t : List Nat} {n : Nat} (h : ∀ x ∈ t, x ≤ n) (i : Nat) : tableAt t i ≤ n := by
  rcases Nat.lt_or_ge i t.length with hi | hi
  · rw [tableAt_eq_getElem hi]
    exact h _ (List.getElem_mem hi)
  · simp [tableAt_of_length_le hi]

theorem lt_length_of_tableAt_pos {t : List Nat} {i : Nat} (h : 0 < tableAt t i) : i < t.length := by
  by_contra hi
  simp [tableAt_of_length_le (Nat.le_of_not_lt hi)] at h

@[simp] theorem tableAt_zeroTable (i : Nat) : tableAt zeroTable i = 0 :=
  Nat.le_zero.mp (tableAt_le_of_forall_mem (fun _ h => (List.eq_of_mem_replicate h).le) i)

/-- One count in a table goes up; the others stay. -/
theorem tableAt_modify_succ {t : List Nat} (l : Nat) {i : Nat} (h : i < t.length) :
    tableAt (t.modify l (· + 1)) i = tableAt t i + if l = i then 1 else 0 := by
  rw [tableAt_eq_getElem (by simpa using h), tableAt_eq_getElem h, List.getElem_modify]
  split <;> rfl

/-- Counting into a table adds the number of occurrences. -/
theorem tableAt_foldl_modify_succ (ls : List Nat) {t : List Nat} {i : Nat} (h : i < t.length) :
    tableAt (ls.foldl (fun t l => t.modify l (· + 1)) t) i = tableAt t i + ls.count i := by
  induction ls generalizing t with
  | nil => simp
  | cons l ls ih =>
    rw [List.foldl_cons, ih (by simpa using h), tableAt_modify_succ l h, List.count_cons]
    simp only [beq_iff_eq]
    omega

/-- Replacing an entry replaces its share of the sum. -/
theorem sum_set_add_getElem (l : List Nat) {i : Nat} (h : i < l.length) (x : Nat) :
    (l.set i x).sum + l[i] = l.sum + x := by
  induction l generalizing i with
  | nil => simp at h
  | cons y l ih =>
    cases i with
    | zero => simp; omega
    | succ i =>
      have := ih (i := i) (by simpa using h)
      simp only [List.set_cons_succ, List.sum_cons, List.getElem_cons_succ]
      omega

/-! ## Bit strings -/

@[simp] theorem bitsMsb_length (l c : Nat) : (bitsMsb l c).length = l := by
  induction l with
  | zero => rfl
  | succ l ih => simp [bitsMsb, ih]

/-- The leading bits of a code are the code without its trailing bits (R106). -/
theorem bitsMsb_take (l m c : Nat) : (bitsMsb (l + m) c).take l = bitsMsb l (c / 2 ^ m) := by
  induction l with
  | zero => simp [bitsMsb]
  | succ l ih =>
    rw [Nat.add_right_comm]
    simp [bitsMsb, ih, Nat.testBit_div_two_pow]

/-- A bit string of `l` bits determines the number below 2^l it writes. -/
theorem bitsMsb_inj {l a b : Nat} (ha : a < 2 ^ l) (hb : b < 2 ^ l) (h : bitsMsb l a = bitsMsb l b) : a = b := by
  have hbit : ∀ i < l, a.testBit i = b.testBit i := by
    clear ha hb
    induction l with
    | zero => simp
    | succ l ih =>
      simp only [bitsMsb, List.cons.injEq] at h
      intro i hi
      rcases Nat.lt_succ_iff_lt_or_eq.mp hi with hi | rfl
      · exact ih h.2 i hi
      · exact h.1
  refine Nat.eq_of_testBit_eq fun i => ?_
  rcases Nat.lt_or_ge i l with hi | hi
  · exact hbit i hi
  · rw [Nat.testBit_lt_two_pow (ha.trans_le (Nat.pow_le_pow_right (by decide) hi)),
      Nat.testBit_lt_two_pow (hb.trans_le (Nat.pow_le_pow_right (by decide) hi))]

/-- A code that another code begins with is that code without its trailing bits. -/
theorem eq_div_of_bitsMsb_prefix {l m a b : Nat} (ha : a < 2 ^ l) (hb : b < 2 ^ m)
    (h : bitsMsb l a <+: bitsMsb m b) : l ≤ m ∧ a = b / 2 ^ (m - l) := by
  have hle : l ≤ m := by simpa using h.length_le
  obtain ⟨k, rfl⟩ := Nat.exists_eq_add_of_le hle
  refine ⟨hle, ?_⟩
  rw [Nat.add_sub_cancel_left]
  refine bitsMsb_inj ha (Nat.div_lt_of_lt_mul (by rwa [Nat.mul_comm, ← Nat.pow_add])) ?_
  rw [← bitsMsb_take, List.prefix_iff_eq_take.mp h, bitsMsb_length]

/-! ## Canonical codes -/

@[simp] theorem lengthCounts_length (len : List Nat) : (lengthCounts len).length = 256 := by
  have hlen (ls t : List Nat) : (ls.foldl (fun t l => t.modify l (· + 1)) t).length = t.length := by
    induction ls generalizing t with
    | nil => rfl
    | cons l ls ih => simp [ih]
  simp [lengthCounts, hlen]

/-- BLC counts the present lengths (R107). -/
theorem tableAt_lengthCounts (len : List Nat) {l : Nat} (h : l < 256) :
    tableAt (lengthCounts len) l = (presentLengths len).count l := by
  rw [lengthCounts, tableAt_foldl_modify_succ _ (by simpa using h)]
  simp [presentLengths]

theorem presentLengths_count (len : List Nat) {l : Nat} (h : 0 < l) : (presentLengths len).count l = len.count l :=
  List.count_filter (by simpa using h)

/-- The recurrence of R107 along the list of first codes. -/
theorem tableAt_firstCodes (blc : List Nat) (code : Nat) {l : Nat} (h : l < blc.length) :
    tableAt (firstCodes blc code) l = 2 * (tableAt (code :: firstCodes blc code) l + tableAt blc l) := by
  induction blc generalizing code l with
  | nil => simp at h
  | cons b blc ih =>
    cases l with
    | zero => rfl
    | succ l => exact ih _ (by simpa using h)

/-- The first code of length `l` (R107). -/
def firstCode (len : List Nat) (l : Nat) : Nat := tableAt (nextCodes len) l

theorem firstCode_zero (len : List Nat) : firstCode len 0 = 0 := rfl

theorem firstCode_succ (len : List Nat) {l : Nat} (h : l < 255) :
    firstCode len (l + 1) = 2 * (firstCode len l + (presentLengths len).count l) := by
  have htake : tableAt ((lengthCounts len).take 255) l = (presentLengths len).count l := by
    rw [← tableAt_lengthCounts len (by omega), tableAt_eq_getElem (by simp; omega),
      tableAt_eq_getElem (by simp; omega), List.getElem_take]
  rw [firstCode, nextCodes, tableAt_cons_succ, tableAt_firstCodes _ _ (by simp; omega), htake]
  rfl

@[simp] theorem firstCodes_length (blc : List Nat) (code : Nat) : (firstCodes blc code).length = blc.length := by
  induction blc generalizing code with
  | nil => rfl
  | cons b blc ih => simp [firstCodes, ih]

@[simp] theorem nextCodes_length (len : List Nat) : (nextCodes len).length = 256 := by simp [nextCodes]

/-- The share of the Kraft sum that the first `n` lengths make. -/
theorem sum_count_mul_le_kraft (len : List Nat) (n : Nat) :
    ∑ l ∈ Finset.range n, (presentLengths len).count l * 2 ^ (255 - l) ≤ kraft len := by
  unfold kraft
  induction presentLengths len with
  | nil => simp
  | cons x ls ih =>
    have hx : ∑ l ∈ Finset.range n, (if x = l then 1 else 0) * 2 ^ (255 - l) ≤ 2 ^ (255 - x) := by
      simp only [ite_mul, one_mul, zero_mul, Finset.sum_ite_eq]
      split <;> simp
    simp only [List.count_cons, beq_iff_eq, Nat.add_mul, Finset.sum_add_distrib, List.map_cons, List.sum_cons]
    omega

/-- The first code of a length is the Kraft sum of all shorter lengths (R107, R108). -/
theorem firstCode_mul_eq_sum (len : List Nat) {l : Nat} (h : l ≤ 255) :
    firstCode len l * 2 ^ (255 - l) = ∑ k ∈ Finset.range l, (presentLengths len).count k * 2 ^ (255 - k) := by
  induction l with
  | zero => simp [firstCode_zero]
  | succ l ih =>
    have hpow : 2 ^ (255 - l) = 2 * 2 ^ (255 - (l + 1)) := by
      rw [← Nat.pow_succ', show 255 - l = 255 - (l + 1) + 1 by omega]
    rw [Finset.sum_range_succ, ← ih (by omega), firstCode_succ len (by omega), hpow]
    ring

/-- No length runs out of codes while the Kraft sum is at most 1. -/
theorem firstCode_add_count_le {len : List Nat} (hk : kraft len ≤ 2 ^ 255) {l : Nat} (h : l ≤ 255) :
    firstCode len l + (presentLengths len).count l ≤ 2 ^ l := by
  have hsum := sum_count_mul_le_kraft len (l + 1)
  rw [Finset.sum_range_succ, ← firstCode_mul_eq_sum len h, ← Nat.add_mul] at hsum
  have hpow : (2 : Nat) ^ 255 = 2 ^ l * 2 ^ (255 - l) := by rw [← Nat.pow_add, Nat.add_sub_cancel' h]
  rw [hpow] at hk
  exact Nat.le_of_mul_le_mul_right (hsum.trans hk) (by positivity)

/-- A longer code starts beyond all codes of a shorter length. -/
theorem firstCode_add_count_mul_le (len : List Nat) {l k : Nat} (h : l + k + 1 ≤ 255) :
    (firstCode len l + (presentLengths len).count l) * 2 ^ (k + 1) ≤ firstCode len (l + k + 1) := by
  induction k with
  | zero => rw [firstCode_succ len (by omega)]; omega
  | succ k ih =>
    have hstep := firstCode_succ len (l := l + k + 1) (by omega)
    have hk := ih (by omega)
    rw [Nat.pow_succ, ← Nat.mul_assoc, show l + (k + 1) + 1 = l + k + 1 + 1 by omega, hstep]
    omega

/-- The last loop of R107: a present symbol takes the next code of its length. -/
theorem tableAt_assignCodes (len next : List Nat) (s : Nat) (hpos : 0 < tableAt len s)
    (hnext : tableAt len s < next.length) :
    tableAt (assignCodes len next) s = tableAt next (tableAt len s) + (len.take s).count (tableAt len s) := by
  induction len generalizing next s with
  | nil => simp [tableAt] at hpos
  | cons l len ih =>
    cases s with
    | zero =>
      cases l with
      | zero => simp at hpos
      | succ l => simp [assignCodes]
    | succ s =>
      rw [tableAt_cons_succ] at hpos hnext ⊢
      cases l with
      | zero =>
        have hne : ¬ 0 = tableAt len s := by omega
        simp [assignCodes, ih next s hpos hnext, hne]
      | succ l =>
        rw [assignCodes, tableAt_cons_succ, ih _ s hpos (by simpa using hnext), tableAt_modify_succ _ hnext,
          List.take_succ_cons, List.count_cons]
        simp only [beq_iff_eq]
        omega

/-- An absent symbol has code 0 (log entry 7). -/
theorem tableAt_assignCodes_absent (len next : List Nat) (s : Nat) (h : tableAt len s = 0) :
    tableAt (assignCodes len next) s = 0 := by
  induction len generalizing next s with
  | nil => simp [assignCodes, tableAt]
  | cons l len ih =>
    cases s with
    | zero =>
      obtain rfl : l = 0 := h
      rfl
    | succ s => cases l <;> exact ih _ s h

/-- Of the symbols of one length, fewer come before symbol `s` than there are. -/
theorem count_take_lt {len : List Nat} {s : Nat} (hs : 0 < tableAt len s) :
    (len.take s).count (tableAt len s) < (presentLengths len).count (tableAt len s) := by
  have hlt := lt_length_of_tableAt_pos hs
  have hsplit := congrArg (List.count (tableAt len s)) (List.take_append_drop s len)
  rw [List.count_append, List.drop_eq_getElem_cons hlt, ← tableAt_eq_getElem hlt, List.count_cons_self] at hsplit
  rw [presentLengths_count len hs]
  omega

/-- A length set the codes of which fit: at most 255 bits each, with Kraft sum at most 1 (R103, R108). -/
structure FitsKraft (len : List Nat) : Prop where
  le : ∀ l ∈ len, l ≤ 255
  kraft : kraft len ≤ 2 ^ 255

section
variable {len : List Nat} (hlen : FitsKraft len)
include hlen

theorem FitsKraft.tableAt_le (s : Nat) : tableAt len s ≤ 255 := tableAt_le_of_forall_mem hlen.le s

/-- The code of a present symbol: the first code of its length, and one more for each earlier symbol of that length. -/
theorem FitsKraft.canonCodes_eq {s : Nat} (hs : 0 < tableAt len s) :
    tableAt (canonCodes len) s = firstCode len (tableAt len s) + (len.take s).count (tableAt len s) :=
  tableAt_assignCodes len _ s hs (by have := hlen.tableAt_le s; simp; omega)

/-- A code fits its length (R109). -/
theorem FitsKraft.canonCodes_lt {s : Nat} (hs : 0 < tableAt len s) :
    tableAt (canonCodes len) s < 2 ^ tableAt len s := by
  have hcount := count_take_lt hs
  have hroom := firstCode_add_count_le hlen.kraft (hlen.tableAt_le s)
  rw [hlen.canonCodes_eq hs]
  omega

/-- Two symbols of one length have different codes. -/
theorem FitsKraft.canonCodes_ne {s t : Nat} (hs : 0 < tableAt len s) (hst : s < t)
    (heq : tableAt len s = tableAt len t) : tableAt (canonCodes len) s < tableAt (canonCodes len) t := by
  have hlt := lt_length_of_tableAt_pos (heq ▸ hs : 0 < tableAt len t)
  rw [hlen.canonCodes_eq hs, hlen.canonCodes_eq (heq ▸ hs), ← heq]
  have hsub : (len.take (s + 1)).count (tableAt len s) ≤ (len.take t).count (tableAt len s) :=
    (List.take_sublist_take_left hst).count_le _
  rw [List.take_succ_eq_append_getElem (by omega), List.count_append, ← tableAt_eq_getElem (by omega)] at hsub
  simp at hsub
  omega

/-- No code begins with another symbol's code (R109). -/
theorem FitsKraft.codeBits_not_prefix {s t : Nat} (hs : 0 < tableAt len s) (ht : 0 < tableAt len t) (hne : s ≠ t) :
    ¬ codeBits len (canonCodes len) s <+: codeBits len (canonCodes len) t := by
  intro hpre
  obtain ⟨hle, heq⟩ := eq_div_of_bitsMsb_prefix (hlen.canonCodes_lt hs) (hlen.canonCodes_lt ht) hpre
  rcases Nat.eq_or_lt_of_le hle with hl | hl
  · rw [hl, Nat.sub_self, Nat.pow_zero, Nat.div_one] at heq
    rcases Nat.lt_or_gt_of_ne hne with h | h
    · have := hlen.canonCodes_ne hs h hl
      omega
    · have := hlen.canonCodes_ne ht h hl.symm
      omega
  · obtain ⟨k, hk⟩ : ∃ k, tableAt len t = tableAt len s + k + 1 := ⟨tableAt len t - tableAt len s - 1, by omega⟩
    have hcount := count_take_lt hs
    have hfirst := firstCode_add_count_mul_le len (l := tableAt len s) (k := k) (by have := hlen.tableAt_le t; omega)
    have hbeyond : firstCode len (tableAt len s) + (presentLengths len).count (tableAt len s) ≤
        tableAt (canonCodes len) t / 2 ^ (tableAt len t - tableAt len s) := by
      rw [Nat.le_div_iff_mul_le (by positivity), show tableAt len t - tableAt len s = k + 1 by omega,
        hlen.canonCodes_eq ht, hk]
      omega
    rw [← heq, hlen.canonCodes_eq hs] at hbeyond
    omega

/-- Every entry of CODE fits its 255 bits (R38, R186). -/
theorem FitsKraft.canonCodes_lt_two_pow (s : Nat) : tableAt (canonCodes len) s < 2 ^ 255 := by
  rcases Nat.eq_zero_or_pos (tableAt len s) with h | h
  · rw [canonCodes, tableAt_assignCodes_absent _ _ _ h]
    positivity
  · exact (hlen.canonCodes_lt h).trans_le (Nat.pow_le_pow_right (by decide) (hlen.tableAt_le s))

end

/-! ## Counting -/

/-- The counting loop adds the number of occurrences (R171). -/
theorem tableAt_countInto (inp : List Byte) {freq : List Nat} {s : Nat} (h : s < freq.length) :
    tableAt (countInto inp freq) s = tableAt freq s + inp.countP (fun b => b.toNat = s) := by
  induction inp generalizing freq with
  | nil => simp [countInto]
  | cons b rest ih =>
    rw [countInto, ih (by simpa using h), tableAt_modify_succ _ h, List.countP_cons]
    simp only [decide_eq_true_eq]
    omega

theorem tableAt_freqOf (inp : List Byte) {s : Nat} (h : s < 256) :
    tableAt (freqOf inp) s = inp.countP fun b => b.toNat = s := by
  rw [freqOf, tableAt_countInto inp (by simpa using h)]
  simp

/-- A count is at most the length of the input (R171). -/
theorem freqOf_le (inp : List Byte) : ∀ x ∈ freqOf inp, x ≤ inp.length := by
  intro x hx
  obtain ⟨s, hs, rfl⟩ := List.getElem_of_mem hx
  rw [← tableAt_eq_getElem hs, tableAt_freqOf inp (by simpa using hs)]
  exact List.countP_le_length

/-- The counting loop raises the sum by one for each byte. -/
theorem countInto_sum (inp : List Byte) {freq : List Nat} (h : freq.length = 256) :
    (countInto inp freq).sum = freq.sum + inp.length := by
  induction inp generalizing freq with
  | nil => rfl
  | cons b rest ih =>
    have hb : b.toNat < freq.length := by have := b.isLt; omega
    have hset := sum_set_add_getElem freq hb (freq[b.toNat] + 1)
    have hmod : freq.modify b.toNat (· + 1) = freq.set b.toNat (freq[b.toNat] + 1) := by
      rw [List.modify_eq_set_getElem?]
      simp [hb]
    rw [countInto, ih (by simpa using h), hmod, List.length_cons]
    omega

/-- The counts sum to N (R171). -/
theorem freqOf_sum (inp : List Byte) : (freqOf inp).sum = inp.length := by
  rw [freqOf, countInto_sum inp zeroTable_length, zeroTable, List.sum_replicate]
  simp

/-- P lists symbols below 256, each once (R172). -/
theorem inputSyms_lt {inp : List Byte} {s : Nat} (h : s ∈ inputSyms inp) : s < 256 := by
  simpa using (List.mem_filter.mp h).1

theorem inputSyms_length_le (inp : List Byte) : (inputSyms inp).length ≤ 256 := by
  simpa [inputSyms, presentSyms] using List.length_filter_le (fun s => decide (0 < tableAt (freqOf inp) s)) (List.range 256)

/-- The counts of the present symbols sum to N: the other counts are 0. -/
theorem inputSyms_freq_sum (inp : List Byte) :
    ((inputSyms inp).map (tableAt (freqOf inp))).sum = inp.length := by
  have hall : (List.range 256).map (tableAt (freqOf inp)) = freqOf inp := by
    refine List.ext_getElem (by simp) fun i hi _ => ?_
    simp [tableAt_eq_getElem (show i < (freqOf inp).length by simpa using hi)]
  have hfilter (l : List Nat) : ((l.filter fun s => decide (0 < tableAt (freqOf inp) s)).map (tableAt (freqOf inp))).sum =
      (l.map (tableAt (freqOf inp))).sum := by
    induction l with
    | nil => rfl
    | cons s l ih =>
      rcases Nat.eq_zero_or_pos (tableAt (freqOf inp) s) with h | h <;> simp [h, ih]
  rw [inputSyms, presentSyms, hfilter, hall, freqOf_sum]

/-! ## The merge loop -/

/-- Sorting a node in adds it to the unmerged nodes (R177). -/
theorem insertActive_perm (x : Active) (l : List Active) : (insertActive x l).Perm (x :: l) := by
  induction l with
  | nil => exact .refl _
  | cons y l ih =>
    unfold insertActive
    split
    · exact .refl _
    · exact (ih.cons y).trans (.swap x y l)

theorem initialActive_perm (leaves : List HuffNode) :
    (initialActive leaves).Perm (leaves.zipIdx.map fun p => (p.1.weight, p.2)) := by
  unfold initialActive
  induction leaves.zipIdx.map fun p => (p.1.weight, p.2) with
  | nil => exact .refl _
  | cons x l ih => exact (insertActive_perm _ _).trans (ih.cons x)

/-- The indices of the first unmerged nodes are those of the leaves. -/
theorem initialActive_indices (leaves : List HuffNode) :
    ((initialActive leaves).map Prod.snd).Perm (List.range leaves.length) := by
  have h := (initialActive_perm leaves).map Prod.snd
  simpa [List.map_map, Function.comp_def, List.zipIdx_map_snd, List.range_eq_range'] using h

/-- The weights of the first unmerged nodes are those of the leaves. -/
theorem initialActive_weights (leaves : List HuffNode) :
    ((initialActive leaves).map Prod.fst).Perm (leaves.map HuffNode.weight) := by
  have h := (initialActive_perm leaves).map Prod.fst
  have hcomp : (leaves.zipIdx.map fun p => (p.1.weight, p.2)).map Prod.fst = leaves.map HuffNode.weight := by
    rw [List.map_map, show Prod.fst ∘ (fun p : HuffNode × Nat => (p.1.weight, p.2)) = HuffNode.weight ∘ Prod.fst from rfl,
      ← List.map_map, List.zipIdx_map_fst]
  rwa [hcomp] at h

@[simp] theorem leafNodes_length (freq syms : List Nat) : (leafNodes freq syms).length = syms.length := by
  simp [leafNodes]

/-- The unmerged nodes of a loop that has still to merge: their indices are distinct and in the array. -/
structure ActiveIn (active : List Active) (size : Nat) : Prop where
  nodup : (active.map Prod.snd).Nodup
  lt : ∀ a ∈ active, a.2 < size

theorem initialActive_in (leaves : List HuffNode) : ActiveIn (initialActive leaves) leaves.length where
  nodup := (initialActive_indices leaves).nodup_iff.mpr List.nodup_range
  lt a ha := by
    have := (initialActive_indices leaves).subset (List.mem_map_of_mem (f := Prod.snd) ha)
    simpa using this

/-- After a merge: the new node, at the end of the array, and the nodes that were not merged. -/
theorem ActiveIn.merge {a b : Active} {rest : List Active} {size : Nat} (h : ActiveIn (a :: b :: rest) size) (w : Nat) :
    ActiveIn (insertActive (w, size) rest) (size + 1) where
  nodup := by
    rw [((insertActive_perm (w, size) rest).map Prod.snd).nodup_iff]
    refine List.nodup_cons.mpr ⟨fun hmem => ?_, (List.nodup_cons.mp (List.nodup_cons.mp h.nodup).2).2⟩
    obtain ⟨c, hc, heq⟩ := List.mem_map.mp hmem
    have := h.lt c (by simp [hc])
    simp only at heq
    omega
  lt c hc := by
    rcases List.mem_cons.mp ((insertActive_perm (w, size) rest).subset hc) with rfl | hc
    · exact Nat.lt_succ_self _
    · exact Nat.lt_succ_of_lt (h.lt c (by simp [hc]))

/-- A merge appends a node; earlier nodes stay (R177). -/
theorem mergeLoop_prefix (fuel : Nat) (active : List Active) (nodes : List HuffNode) :
    nodes <+: mergeLoop fuel active nodes := by
  induction fuel generalizing active nodes with
  | zero => exact List.prefix_rfl
  | succ k ih =>
    match active with
    | [] => exact List.prefix_rfl
    | [_] => exact List.prefix_rfl
    | a :: b :: rest => exact (List.prefix_append _ _).trans (ih _ _)

/-- The values of a node are at most `n` (its weight), below 256 (its symbol) and below `size` (its children). -/
def HuffNode.Within (n size : Nat) (x : HuffNode) : Prop :=
  match x with
  | .leaf w s => w ≤ n ∧ s < 256
  | .inner w l r => w ≤ n ∧ l < size ∧ r < size

/-- The merge loop makes no weight above the sum of the unmerged weights, which a merge keeps, and no child beyond the
array (R186). -/
theorem mergeLoop_within {n size fuel : Nat} {active : List Active} {nodes : List HuffNode}
    (hin : ActiveIn active nodes.length) (hsum : (active.map Prod.fst).sum ≤ n) (hsize : nodes.length + fuel ≤ size)
    (hnodes : ∀ x ∈ nodes, x.Within n size) : ∀ x ∈ mergeLoop fuel active nodes, x.Within n size := by
  induction fuel generalizing active nodes with
  | zero => exact hnodes
  | succ k ih =>
    match active with
    | [] => exact hnodes
    | [_] => exact hnodes
    | a :: b :: rest =>
      have ha := hin.lt a (by simp)
      have hb := hin.lt b (by simp)
      have hperm := ((insertActive_perm (a.1 + b.1, nodes.length) rest).map Prod.fst).sum_eq
      simp only [List.map_cons, List.sum_cons] at hsum hperm
      refine ih (by simpa using hin.merge (a.1 + b.1)) (by omega) (by simp; omega) fun x hx => ?_
      rcases List.mem_append.mp hx with hx | hx
      · exact hnodes x hx
      · obtain rfl := List.mem_singleton.mp hx
        exact ⟨by omega, by omega, by omega⟩

/-- Every value of the encoder tree fits (R186). -/
theorem buildTree_within (inp : List Byte) :
    ∀ x ∈ buildTree (freqOf inp) (inputSyms inp), x.Within inp.length 511 := by
  have hle := inputSyms_length_le inp
  refine mergeLoop_within (initialActive_in _) ?_ (by simp; omega) fun x hx => ?_
  · have hweights : (leafNodes (freqOf inp) (inputSyms inp)).map HuffNode.weight =
        (inputSyms inp).map (tableAt (freqOf inp)) := by
      simp [leafNodes, HuffNode.weight, Function.comp_def]
    rw [(initialActive_weights _).sum_eq, hweights, inputSyms_freq_sum]
  · obtain ⟨s, hs, rfl⟩ := List.mem_map.mp hx
    exact ⟨tableAt_le_of_forall_mem (freqOf_le inp) s, inputSyms_lt hs⟩

/-- A node whose values fit their registers is stored without loss (R37). -/
theorem HuffNode.Within.load_store {n : Nat} (hn : n < 2 ^ 32) {x : HuffNode} (h : x.Within n 511) :
    x.store.load = x := by
  cases x with
  | leaf w s =>
    obtain ⟨hw, hs⟩ := h
    exact EncNode.load_store_leaf w s (by omega) (by omega)
  | inner w l r =>
    obtain ⟨hw, hl, hr⟩ := h
    exact EncNode.load_store_inner w l r (by omega) (by omega) (by omega)

/-! ## Depths -/

theorem spreadDepths_append (xs ys : List (HuffNode × Nat)) (depth : List Nat) :
    spreadDepths (xs ++ ys) depth = spreadDepths ys (spreadDepths xs depth) := by
  induction xs generalizing depth with
  | nil => rfl
  | cons x xs ih =>
    obtain ⟨n, i⟩ := x
    cases n <;> exact ih _

@[simp] theorem spreadDepths_length (xs : List (HuffNode × Nat)) (depth : List Nat) :
    (spreadDepths xs depth).length = depth.length := by
  induction xs generalizing depth with
  | nil => rfl
  | cons x xs ih =>
    obtain ⟨n, i⟩ := x
    cases n <;> simp [spreadDepths, ih]

/-- The depths after the nodes from `n` on have given theirs to their children (R179). -/
def depthsFrom (tree : List HuffNode) (n : Nat) : List Nat :=
  spreadDepths (tree.zipIdx.drop n).reverse (List.replicate tree.length 0)

theorem nodeDepths_eq_depthsFrom (tree : List HuffNode) : nodeDepths tree = depthsFrom tree 0 := rfl

@[simp] theorem depthsFrom_length (tree : List HuffNode) (n : Nat) : (depthsFrom tree n).length = tree.length := by
  simp [depthsFrom]

@[simp] theorem tableAt_depthsFrom_length (tree : List HuffNode) (i : Nat) :
    tableAt (depthsFrom tree tree.length) i = 0 := by
  have h : depthsFrom tree tree.length = List.replicate tree.length 0 := by
    rw [depthsFrom, List.drop_of_length_le (by simp)]
    rfl
  rw [h]
  exact Nat.le_zero.mp (tableAt_le_of_forall_mem (fun _ h => (List.eq_of_mem_replicate h).le) i)

/-- One node further down. -/
theorem depthsFrom_step {tree : List HuffNode} {n : Nat} {x : HuffNode} (h : tree[n]? = some x) :
    depthsFrom tree n = spreadDepths [(x, n)] (depthsFrom tree (n + 1)) := by
  obtain ⟨hn, rfl⟩ := List.getElem?_eq_some_iff.mp h
  rw [depthsFrom, List.drop_eq_getElem_cons (by simpa using hn), List.reverse_cons, spreadDepths_append]
  simp [depthsFrom]

theorem depthsFrom_leaf {tree : List HuffNode} {n w s : Nat} (h : tree[n]? = some (.leaf w s)) :
    depthsFrom tree n = depthsFrom tree (n + 1) := depthsFrom_step h

theorem depthsFrom_inner {tree : List HuffNode} {n w l r : Nat} (h : tree[n]? = some (.inner w l r)) :
    depthsFrom tree n = ((depthsFrom tree (n + 1)).set l (tableAt (depthsFrom tree (n + 1)) n + 1)).set r
      (tableAt (depthsFrom tree (n + 1)) n + 1) := depthsFrom_step h

/-- Leaves give no depth. -/
theorem nodeDepths_eq_of_leaves {tree : List HuffNode} {n : Nat}
    (h : ∀ i < n, ∃ w s, tree[i]? = some (.leaf w s)) : nodeDepths tree = depthsFrom tree n := by
  induction n with
  | zero => rfl
  | succ n ih =>
    obtain ⟨w, s, hleaf⟩ := h n (Nat.lt_succ_self n)
    rw [ih fun i hi => h i (by omega), depthsFrom_leaf hleaf]

theorem tableAt_set {t : List Nat} {i : Nat} (h : i < t.length) (x j : Nat) :
    tableAt (t.set i x) j = if i = j then x else tableAt t j := by
  rcases Nat.lt_or_ge j t.length with hj | hj
  · rw [tableAt_eq_getElem (by simpa using hj), tableAt_eq_getElem hj, List.getElem_set]
  · rw [if_neg (by omega), tableAt_of_length_le (by simpa using hj), tableAt_of_length_le hj]

/-- The share of the Kraft sum that a leaf of this depth takes. -/
def depthShare (d : Nat) : Nat := 2 ^ (255 - d)

theorem depthShare_succ {d : Nat} (h : d < 255) : depthShare (d + 1) + depthShare (d + 1) = depthShare d := by
  unfold depthShare
  rw [← Nat.two_mul, ← Nat.pow_succ', Nat.succ_eq_add_one, show 255 - (d + 1) + 1 = 255 - d by omega]

/-- The depths of these nodes are at most `k`, and fill the Kraft sum: the nodes are a cut through the tree. -/
structure IsCut (depth : List Nat) (k : Nat) (active : List Active) : Prop where
  le : ∀ a ∈ active, tableAt depth a.2 ≤ k
  sum : (active.map fun a => depthShare (tableAt depth a.2)).sum = 2 ^ 255

theorem IsCut.perm {depth : List Nat} {k : Nat} {xs ys : List Active} (h : IsCut depth k xs) (hp : xs.Perm ys) :
    IsCut depth k ys where
  le a ha := h.le a (hp.mem_iff.mpr ha)
  sum := by rw [← (hp.map _).sum_eq, h.sum]

/-- Replacing a node of a cut by its two children gives a cut. -/
theorem IsCut.split {depth : List Nat} {k : Nat} {a b x : Active} {rest : List Active}
    (h : IsCut depth k (x :: rest)) (hk : k < 255) (ha : a.2 < depth.length) (hb : b.2 < depth.length)
    (hnodup : ((a :: b :: rest).map Prod.snd).Nodup) :
    IsCut ((depth.set a.2 (tableAt depth x.2 + 1)).set b.2 (tableAt depth x.2 + 1)) (k + 1) (a :: b :: rest) := by
  have hx : tableAt depth x.2 ≤ k := h.le x (by simp)
  have hat (j : Nat) : tableAt ((depth.set a.2 (tableAt depth x.2 + 1)).set b.2 (tableAt depth x.2 + 1)) j =
      if b.2 = j then tableAt depth x.2 + 1 else if a.2 = j then tableAt depth x.2 + 1 else tableAt depth j := by
    rw [tableAt_set (by simpa using hb), tableAt_set ha]
  have hrest : ∀ c ∈ rest, a.2 ≠ c.2 ∧ b.2 ≠ c.2 := by
    simp only [List.map_cons, List.nodup_cons, List.mem_cons, List.mem_map, not_or] at hnodup
    obtain ⟨⟨-, hna⟩, hnb, -⟩ := hnodup
    exact fun c hc => ⟨fun he => hna ⟨c, hc, he.symm⟩, fun he => hnb ⟨c, hc, he.symm⟩⟩
  have hkept : ∀ c ∈ rest, tableAt ((depth.set a.2 (tableAt depth x.2 + 1)).set b.2 (tableAt depth x.2 + 1)) c.2 =
      tableAt depth c.2 := fun c hc => by
    rw [hat, if_neg (hrest c hc).2, if_neg (hrest c hc).1]
  constructor
  · intro c hc
    rw [List.mem_cons, List.mem_cons] at hc
    rcases hc with rfl | rfl | hc
    · simp only [hat]
      split_ifs <;> omega
    · simp only [hat, if_true]
      omega
    · have := h.le c (by simp [hc])
      rw [hkept c hc]
      omega
  · have hsum := h.sum
    have hmap := List.map_congr_left fun c hc => congrArg depthShare (hkept c hc)
    simp only [List.map_cons, List.sum_cons] at hsum ⊢
    rw [hmap, ← hsum, ← depthShare_succ (by omega : tableAt depth x.2 < 255)]
    simp only [hat, if_true, ite_self]
    omega

/-- Down from the root, the unmerged nodes of every moment of the loop are a cut of the tree, and none lies deeper than the
merges still to come (R177, R179). -/
theorem mergeLoop_isCut {fuel : Nat} (hfuel : fuel ≤ 255) {active : List Active} {nodes : List HuffNode}
    (hin : ActiveIn active nodes.length) (hlen : active.length = fuel + 1) :
    IsCut (depthsFrom (mergeLoop fuel active nodes) nodes.length) fuel active := by
  induction fuel generalizing active nodes with
  | zero =>
    obtain ⟨a, rfl⟩ := List.length_eq_one_iff.mp hlen
    exact ⟨by simp [mergeLoop], by simp [mergeLoop, depthShare]⟩
  | succ k ih =>
    match active with
    | [] => simp at hlen
    | [_] => simp at hlen
    | a :: b :: rest =>
      have hperm := insertActive_perm (a.1 + b.1, nodes.length) rest
      have hcut := (ih (by omega) (nodes := nodes ++ [.inner (a.1 + b.1) a.2 b.2])
        (by simpa using hin.merge (a.1 + b.1)) (by rw [hperm.length_eq]; simpa using hlen)).perm hperm
      have hprefix := mergeLoop_prefix k (insertActive (a.1 + b.1, nodes.length) rest)
        (nodes ++ [.inner (a.1 + b.1) a.2 b.2])
      have hnode := List.prefix_iff_getElem?.mp hprefix nodes.length (by simp)
      have hlong := hprefix.length_le
      have ha := hin.lt a (by simp)
      have hb := hin.lt b (by simp)
      simp only [List.length_append, List.length_singleton, List.getElem_concat_length] at hcut hnode hlong
      rw [mergeLoop, depthsFrom_inner hnode]
      exact hcut.split (by omega) (by simp; omega) (by simp; omega) hin.nodup

/-! ## The lengths of the encoder -/

theorem buildTree_leaf (freq syms : List Nat) {i : Nat} (h : i < syms.length) :
    ∃ w s, (buildTree freq syms)[i]? = some (.leaf w s) := by
  have hleaf := List.prefix_iff_getElem?.mp (mergeLoop_prefix (syms.length - 1) (initialActive (leafNodes freq syms))
    (leafNodes freq syms)) i (by simpa using h)
  exact ⟨tableAt freq syms[i], syms[i], hleaf.trans (by simp [leafNodes])⟩

theorem syms_length_le_buildTree (freq syms : List Nat) : syms.length ≤ (buildTree freq syms).length := by
  simpa [buildTree] using (mergeLoop_prefix (syms.length - 1) (initialActive (leafNodes freq syms))
    (leafNodes freq syms)).length_le

/-- The depths of the leaves. -/
def leafDepths (freq syms : List Nat) : List Nat := (nodeDepths (buildTree freq syms)).take syms.length

/-- The leaves fill the Kraft sum, and none lies deeper than S - 1 (R186, R189). -/
theorem leafDepths_kraft {freq syms : List Nat} (hpos : 0 < syms.length) (hle : syms.length ≤ 256) :
    (∀ d ∈ leafDepths freq syms, d ≤ syms.length - 1) ∧ ((leafDepths freq syms).map depthShare).sum = 2 ^ 255 := by
  have hperm := initialActive_indices (leafNodes freq syms)
  have hcut := mergeLoop_isCut (by omega) (initialActive_in (leafNodes freq syms))
    (fuel := syms.length - 1) (by have := hperm.length_eq; simp at this; omega)
  rw [leafNodes_length] at hcut hperm
  have hdepths : leafDepths freq syms = (List.range syms.length).map
      (tableAt (depthsFrom (buildTree freq syms) syms.length)) := by
    rw [leafDepths, nodeDepths_eq_of_leaves fun i hi => buildTree_leaf freq syms hi]
    refine List.ext_getElem (by simpa using syms_length_le_buildTree freq syms) fun i hi _ => ?_
    rw [List.getElem_take, List.getElem_map, List.getElem_range, tableAt_eq_getElem]
  rw [hdepths]
  constructor
  · intro d hd
    obtain ⟨i, hi, rfl⟩ := List.mem_map.mp hd
    obtain ⟨a, ha, rfl⟩ := List.mem_map.mp (hperm.mem_iff.mpr hi)
    exact hcut.le a ha
  · rw [List.map_map, ← (hperm.map _).sum_eq, List.map_map]
    exact hcut.sum

/-- The Kraft sum over a whole table: an absent symbol has no share. -/
theorem kraft_eq_sum (len : List Nat) : kraft len = (len.map fun l => if 0 < l then depthShare l else 0).sum := by
  unfold kraft presentLengths
  induction len with
  | nil => rfl
  | cons l len ih =>
    rcases Nat.eq_zero_or_pos l with h | h <;> simp [h, ih, depthShare]

theorem kraft_set_le (t : List Nat) (i l : Nat) : kraft (t.set i l) ≤ kraft t + depthShare l := by
  rcases Nat.lt_or_ge i t.length with hi | hi
  · have hset := sum_set_add_getElem (t.map fun l => if 0 < l then depthShare l else 0) (i := i) (by simpa using hi)
      (if 0 < l then depthShare l else 0)
    have hshare : (if 0 < l then depthShare l else 0) ≤ depthShare l := by split <;> simp
    rw [kraft_eq_sum, kraft_eq_sum, List.map_set]
    omega
  · rw [List.set_eq_of_length_le hi]
    exact Nat.le_add_right _ _

/-- A table's Kraft sum is at most that of the pairs it is made of. -/
theorem kraft_foldl_set_le (pairs : List (Nat × Nat)) (t : List Nat) :
    kraft (pairs.foldl (fun t p => t.set p.1 p.2) t) ≤ kraft t + (pairs.map fun p => depthShare p.2).sum := by
  induction pairs generalizing t with
  | nil => simp
  | cons p pairs ih =>
    have hset := kraft_set_le t p.1 p.2
    have hrest := ih (t.set p.1 p.2)
    simp only [List.foldl_cons, List.map_cons, List.sum_cons]
    omega

theorem mem_foldl_set {pairs : List (Nat × Nat)} {t : List Nat} {x : Nat}
    (h : x ∈ pairs.foldl (fun t p => t.set p.1 p.2) t) : x ∈ t ∨ x ∈ pairs.map Prod.snd := by
  induction pairs generalizing t with
  | nil => exact .inl h
  | cons p pairs ih =>
    rcases ih h with h | h
    · exact (List.mem_or_eq_of_mem_set h).imp id fun h => by simp [h]
    · exact .inr (by simp [h])

/-- A table made of pairs whose lengths have at most 255 bits and Kraft sum at most 1. -/
theorem lenTable_fitsKraft {pairs : List (Nat × Nat)} (hle : ∀ l ∈ pairs.map Prod.snd, l ≤ 255)
    (hsum : ((pairs.map Prod.snd).map depthShare).sum ≤ 2 ^ 255) : FitsKraft (lenTable pairs) where
  le l hl := by
    rcases mem_foldl_set hl with h | h
    · simp [List.eq_of_mem_replicate h]
    · exact hle l h
  kraft := by
    have hzero : kraft zeroTable = 0 := by
      rw [kraft, presentLengths, zeroTable, List.filter_replicate_of_neg (by simp)]
      rfl
    have hfold := kraft_foldl_set_le pairs zeroTable
    rw [List.map_map] at hsum
    rw [hzero, Nat.zero_add] at hfold
    exact hfold.trans hsum

theorem huffLengths_fitsKraft {freq syms : List Nat} (hle : syms.length ≤ 256) : FitsKraft (huffLengths freq syms) := by
  unfold huffLengths
  split
  · exact lenTable_fitsKraft (by simp) (by simp [depthShare])
  · have hsnd : (syms.zip (nodeDepths (buildTree freq syms))).map Prod.snd = leafDepths freq syms := by
      have hmin : min syms.length (nodeDepths (buildTree freq syms)).length = syms.length := by
        rw [nodeDepths_eq_depthsFrom, depthsFrom_length]
        exact Nat.min_eq_left (syms_length_le_buildTree freq syms)
      rw [List.zip_eq_zip_take_min, hmin, List.map_snd_zip (by simp), leafDepths]
    rcases Nat.eq_zero_or_pos syms.length with h | h
    · obtain rfl := List.length_eq_zero_iff.mp h
      exact lenTable_fitsKraft (by simp) (by simp)
    · obtain ⟨hdeep, hsum⟩ := leafDepths_kraft (freq := freq) h hle
      refine lenTable_fitsKraft (fun l hl => ?_) (by rw [hsnd, hsum])
      have := hdeep l (hsnd ▸ hl)
      omega

theorem inputLengths_fitsKraft (inp : List Byte) : FitsKraft (inputLengths inp) :=
  huffLengths_fitsKraft (inputSyms_length_le inp)

/-! ## The bit packer -/

/-- One more bit at the end of a number. -/
theorem bitsMsb_snoc (l c : Nat) (b : Bool) : bitsMsb (l + 1) (2 * c + b.toNat) = bitsMsb l c ++ [b] := by
  have hhalf : (2 * c + b.toNat) / 2 = c := by
    have := b.toNat_lt
    omega
  induction l with
  | zero => cases b <;> simp [bitsMsb]
  | succ l ih => rw [bitsMsb, ih, Nat.testBit_succ, hhalf]; rfl

/-- While NACC is below 8, ACC takes one more bit without loss (R182). -/
theorem pushBit_eq {acc nacc : Nat} (b : Bool) (hn : nacc < 8) (ha : acc < 2 ^ nacc) :
    pushBit acc b = 2 * acc + b.toNat ∧ pushBit acc b < 2 ^ (nacc + 1) := by
  have hb := b.toNat_lt
  have hpow : 2 ^ (nacc + 1) ≤ 2 ^ 8 := Nat.pow_le_pow_right (by decide) hn
  have hlt : 2 * acc + b.toNat < 2 ^ (nacc + 1) := by rw [Nat.pow_succ]; omega
  have heq : pushBit acc b = 2 * acc + b.toNat := Nat.mod_eq_of_lt (by omega)
  exact ⟨heq, heq ▸ hlt⟩

/-- At the end of R182, ACC and NACC hold the bits that fill no byte. -/
theorem packRest_spec (bits : List Bool) {acc nacc : Nat} (hn : nacc < 8) (ha : acc < 2 ^ nacc) :
    (packRest bits acc nacc).2 = (nacc + bits.length) % 8 ∧
    (packRest bits acc nacc).1 < 2 ^ (packRest bits acc nacc).2 ∧
    bitsMsb (packRest bits acc nacc).2 (packRest bits acc nacc).1 =
      (bitsMsb nacc acc ++ bits).drop (8 * ((nacc + bits.length) / 8)) := by
  induction bits generalizing acc nacc with
  | nil => simp [packRest, ha, Nat.mod_eq_of_lt hn, Nat.div_eq_of_lt hn]
  | cons b rest ih =>
    obtain ⟨hpush, hlt⟩ := pushBit_eq b hn ha
    have hsplit : bitsMsb nacc acc ++ b :: rest = bitsMsb (nacc + 1) (pushBit acc b) ++ rest := by
      rw [hpush, bitsMsb_snoc, List.append_assoc]
      rfl
    rw [packRest, hsplit, List.length_cons]
    split
    · next h8 =>
      obtain ⟨hnacc, hacc, hbits⟩ := ih (acc := 0) (nacc := 0) (by decide) (by decide)
      refine ⟨by omega, hacc, ?_⟩
      rw [hbits, show 8 * ((nacc + (rest.length + 1)) / 8) = nacc + 1 + 8 * ((0 + rest.length) / 8) by omega,
        ← List.drop_drop, List.drop_left' (bitsMsb_length _ _)]
      rfl
    · obtain ⟨hnacc, hacc, hbits⟩ := ih (by omega) hlt
      exact ⟨by omega, hacc, by rw [hbits, show nacc + 1 + rest.length = nacc + (rest.length + 1) by omega]⟩

/-! ## One more node in the decoder tree -/

/-- The children of an inner node after `m` has become its child for bit `b` (R232). -/
def withChild (l r : Option Nat) (b : Bool) (m : Nat) : TrieNode := if b then .inner l (some m) else .inner (some m) r

/-- A node `m` becomes the child `b` of node `j`, at the end of the array (R232). -/
def attach (t : List TrieNode) (j : Nat) (b : Bool) (m : TrieNode) : List TrieNode := setChild t j b t.length ++ [m]

theorem insertCode_singleton (s : Nat) (b : Bool) (j : Nat) (t : List TrieNode) :
    insertCode s [b] j t = attach t j b (.leaf s) := rfl

@[simp] theorem setChild_length (t : List TrieNode) (j : Nat) (b : Bool) (m : Nat) :
    (setChild t j b m).length = t.length := by simp [setChild]

@[simp] theorem attach_length (t : List TrieNode) (j : Nat) (b : Bool) (m : TrieNode) :
    (attach t j b m).length = t.length + 1 := by simp [attach]

/-- A node that is no leaf is an inner node. -/
theorem exists_inner_of_leafSym_eq_none {t : List TrieNode} {j : Nat} (hj : j < t.length) (h : leafSym t j = none) :
    ∃ l r, t[j]? = some (.inner l r) := by
  unfold leafSym at h
  rw [List.getElem?_eq_getElem hj] at h ⊢
  cases hn : t[j] with
  | leaf s => simp [hn] at h
  | inner l r => exact ⟨l, r, rfl⟩

section
variable {t : List TrieNode} {j : Nat} {l r : Option Nat} (hj : t[j]? = some (.inner l r))
include hj

theorem setChild_eq_set (b : Bool) (m : Nat) : setChild t j b m = t.set j (withChild l r b m) := by
  rw [setChild, List.modify_eq_set_getElem?, hj]
  rfl

theorem attach_getElem? (b : Bool) (m : TrieNode) (i : Nat) :
    (attach t j b m)[i]? =
      if i = t.length then some m else if i = j then some (withChild l r b t.length) else t[i]? := by
  have hlt : j < t.length := (List.getElem?_eq_some_iff.mp hj).1
  rw [attach, setChild_eq_set hj, List.getElem?_append, List.length_set, List.getElem?_set]
  rcases Nat.lt_trichotomy i t.length with hi | rfl | hi
  · rw [if_pos hi, if_neg (show i ≠ t.length by omega)]
    by_cases hij : i = j
    · subst hij
      simp [hi]
    · simp [hij, Ne.symm hij]
  · simp
  · rw [if_neg (by omega), if_neg (by omega), if_neg (by omega), List.getElem?_eq_none (Nat.le_of_lt hi),
      List.getElem?_eq_none (by rw [List.length_singleton]; omega)]

theorem leafSym_attach (b : Bool) (m : TrieNode) (i : Nat) :
    leafSym (attach t j b m) i = if i = t.length then leafSym [m] 0 else leafSym t i := by
  unfold leafSym
  rw [attach_getElem? hj]
  split_ifs with hi hij
  · rfl
  · rw [hij, hj]
    cases b <;> rfl
  · rfl

theorem childOf_attach (b : Bool) (m : TrieNode) (i : Nat) (c : Bool) :
    childOf (attach t j b m) i c =
      if i = t.length then childOf [m] 0 c else if i = j ∧ c = b then some t.length else childOf t i c := by
  unfold childOf
  rw [attach_getElem? hj]
  by_cases hi : i = t.length
  · simp [hi]
  · by_cases hij : i = j
    · subst hij
      rw [hj]
      cases b <;> cases c <;> simp [hi, withChild]
    · simp [hi, hij]

end

/-! ## Sums over the nodes -/

/-- A sum over the nodes of a tree, each with the bit string that leads to it. -/
def nodeSum (f : TrieNode → List Bool → Nat) (t : List TrieNode) (paths : List (List Bool)) : Nat :=
  (List.zipWith f t paths).sum

theorem nodeSum_mono {f g : TrieNode → List Bool → Nat} (h : ∀ n p, f n p ≤ g n p) (t : List TrieNode)
    (paths : List (List Bool)) : nodeSum f t paths ≤ nodeSum g t paths := by
  unfold nodeSum
  induction t generalizing paths with
  | nil => simp
  | cons n t ih =>
    cases paths with
    | nil => simp
    | cons p paths => simpa using Nat.add_le_add (h n p) (ih paths)

/-- A new node adds its share, and replaces its parent's. -/
theorem nodeSum_attach (f : TrieNode → List Bool → Nat) {t : List TrieNode} {paths : List (List Bool)} {j : Nat}
    {l r : Option Nat} {p : List Bool} (hlen : paths.length = t.length) (hj : t[j]? = some (.inner l r))
    (hp : paths[j]? = some p) (b : Bool) (m : TrieNode) (q : List Bool) :
    nodeSum f (attach t j b m) (paths ++ [q]) + f (.inner l r) p =
      nodeSum f t paths + f (withChild l r b t.length) p + f m q := by
  obtain ⟨hlt, hnode⟩ := List.getElem?_eq_some_iff.mp hj
  obtain ⟨hlt', hpath⟩ := List.getElem?_eq_some_iff.mp hp
  have hset : List.zipWith f (t.set j (withChild l r b t.length)) paths =
      (List.zipWith f t paths).set j (f (withChild l r b t.length) p) := by
    refine List.ext_getElem (by simp) fun i hi _ => ?_
    simp only [List.getElem_zipWith, List.getElem_set]
    split_ifs with hij
    · subst hij
      rw [hpath]
    · rfl
  have hsum := sum_set_add_getElem (List.zipWith f t paths) (i := j) (by simp; omega)
    (f (withChild l r b t.length) p)
  rw [List.getElem_zipWith, hnode, hpath] at hsum
  have happ : nodeSum f (attach t j b m) (paths ++ [q]) =
      ((List.zipWith f t paths).set j (f (withChild l r b t.length) p)).sum + f m q := by
    rw [nodeSum, attach, setChild_eq_set hj, List.zipWith_append (by simp [hlen]), hset]
    simp
  rw [happ, nodeSum]
  omega

/-- The missing children of a node: each is a place where a code may still go. -/
def TrieNode.missing (n : TrieNode) : Nat :=
  match n with
  | .leaf _ => 0
  | .inner l r => (if l.isNone then 1 else 0) + if r.isNone then 1 else 0

theorem missing_withChild {t : List TrieNode} {j : Nat} {l r : Option Nat} (hj : t[j]? = some (.inner l r)) {b : Bool}
    (hnone : childOf t j b = none) (m : Nat) : (withChild l r b m).missing + 1 = (TrieNode.inner l r).missing := by
  simp only [childOf, hj] at hnone
  cases b
  · obtain rfl : l = none := hnone
    simp [withChild, TrieNode.missing, Nat.add_comm]
  · obtain rfl : r = none := hnone
    simp [withChild, TrieNode.missing]

/-- The missing children, counted. -/
def missingCount (t : List TrieNode) (paths : List (List Bool)) : Nat := nodeSum (fun n _ => n.missing) t paths

/-- The share of the Kraft sum (in units of 2^-256) of a child of a node with path `p`. -/
def childShare (p : List Bool) : Nat := 2 ^ (255 - p.length)

/-- The share of the Kraft sum that no code has taken yet. -/
def missingShare (t : List TrieNode) (paths : List (List Bool)) : Nat :=
  nodeSum (fun n p => n.missing * childShare p) t paths

theorem missingCount_le_missingShare (t : List TrieNode) (paths : List (List Bool)) :
    missingCount t paths ≤ missingShare t paths :=
  nodeSum_mono (fun _ p => Nat.le_mul_of_pos_right _ (Nat.two_pow_pos (255 - p.length))) t paths

section
variable {t : List TrieNode} {paths : List (List Bool)} {j : Nat} {l r : Option Nat} {p : List Bool} {b : Bool}
  (hlen : paths.length = t.length) (hj : t[j]? = some (.inner l r)) (hp : paths[j]? = some p)
  (hnone : childOf t j b = none)
include hlen hj hp hnone

theorem missingCount_attach (m : TrieNode) (q : List Bool) :
    missingCount (attach t j b m) (paths ++ [q]) + 1 = missingCount t paths + m.missing := by
  have hsum := nodeSum_attach (fun n _ => n.missing) hlen hj hp b m q
  have hfill := missing_withChild hj hnone t.length
  unfold missingCount
  omega

theorem missingShare_attach (m : TrieNode) (q : List Bool) :
    missingShare (attach t j b m) (paths ++ [q]) + childShare p = missingShare t paths + m.missing * childShare q := by
  have hsum := nodeSum_attach (fun n p => n.missing * childShare p) hlen hj hp b m q
  rw [← missing_withChild hj hnone t.length, Nat.add_mul, Nat.one_mul] at hsum
  unfold missingShare
  omega

end

/-! ## The tree of a code -/

/-- A code over some symbols: no code is empty or longer than 255 bits, and none begins with another (R103, R109). -/
structure PrefixCode (codes : Nat → List Bool) (syms : List Nat) : Prop where
  ne_nil : ∀ s ∈ syms, codes s ≠ []
  length_le : ∀ s ∈ syms, (codes s).length ≤ 255
  not_prefix : ∀ s ∈ syms, ∀ t ∈ syms, s ≠ t → ¬ codes s <+: codes t

/-- The share of the Kraft sum (in units of 2^-256) that these symbols' codes take. -/
def takenShare (codes : Nat → List Bool) (done : List Nat) : Nat :=
  (done.map fun s => 2 ^ (256 - (codes s).length)).sum

/-- The shape of the tree once the codes of `done` are in it: `paths` lists the bit string that leads to each node, the
leaves are the codes of `done`, and every other node is on the way to some code. -/
structure TriePaths (codes : Nat → List Bool) (syms done : List Nat) (t : List TrieNode) (paths : List (List Bool)) :
    Prop where
  length : paths.length = t.length
  root : paths[0]? = some []
  child : ∀ j b c, childOf t j b = some c → ∃ p, paths[j]? = some p ∧ paths[c]? = some (p ++ [b])
  leaf : ∀ j s, leafSym t j = some s → s ∈ done ∧ paths[j]? = some (codes s)
  inner : ∀ j p, paths[j]? = some p → leafSym t j = none → ∃ s ∈ syms, p <+: codes s ∧ p ≠ codes s

/-- With the shape, the two balances: the missing children and the codes in the tree share the Kraft sum, and every node
but the root is one of the children that do not miss. -/
structure TrieInv (codes : Nat → List Bool) (syms done : List Nat) (t : List TrieNode) (paths : List (List Bool)) :
    Prop extends TriePaths codes syms done t paths where
  share : missingShare t paths + takenShare codes done = 2 ^ 256
  count : t.length + 1 = 2 * done.length + missingCount t paths

section
variable {codes : Nat → List Bool} {syms done : List Nat} {t : List TrieNode} {paths : List (List Bool)}

/-- The root alone (R232). -/
theorem TrieInv.root_only (hcode : PrefixCode codes syms) {s : Nat} (hs : s ∈ syms) :
    TrieInv codes syms [] [.inner none none] [[]] where
  length := rfl
  root := rfl
  child j b c h := by
    cases j <;> cases b <;> simp [childOf] at h
  leaf j s h := by
    cases j <;> simp [leafSym] at h
  inner j p hp _ := by
    cases j with
    | zero =>
      obtain rfl : [] = p := by simpa using hp
      exact ⟨s, hs, List.nil_prefix, (hcode.ne_nil s hs).symm⟩
    | succ j => simp at hp
  share := by simp [missingShare, nodeSum, TrieNode.missing, childShare, takenShare]
  count := by simp [missingCount, nodeSum, TrieNode.missing]

variable {j : Nat} {p : List Bool} {b : Bool}

theorem TriePaths.lt_length (h : TriePaths codes syms done t paths) (hp : paths[j]? = some p) : j < t.length := by
  rw [← h.length]
  exact (List.getElem?_eq_some_iff.mp hp).1

/-- A node without children, a leaf of its own code or a node on the way to one, keeps the shape. -/
theorem TriePaths.attach_node (h : TriePaths codes syms done t paths) (hp : paths[j]? = some p) {l r : Option Nat}
    (hj : t[j]? = some (.inner l r)) {m : TrieNode} {done' : List Nat} (hdone : done ⊆ done')
    (hm : ∀ c, childOf [m] 0 c = none) (hleaf : ∀ s, leafSym [m] 0 = some s → s ∈ done' ∧ codes s = p ++ [b])
    (hinner : leafSym [m] 0 = none → ∃ s ∈ syms, p ++ [b] <+: codes s ∧ p ++ [b] ≠ codes s) :
    TriePaths codes syms done' (attach t j b m) (paths ++ [p ++ [b]]) := by
  have hold {i : Nat} {q : List Bool} (hq : paths[i]? = some q) : (paths ++ [p ++ [b]])[i]? = some q := by
    rw [List.getElem?_append_left (by rw [h.length]; exact h.lt_length hq), hq]
  have hnew : (paths ++ [p ++ [b]])[t.length]? = some (p ++ [b]) := by simp [← h.length]
  constructor
  case length => simp [h.length]
  case root => exact hold h.root
  case child =>
    intro i c k hk
    rw [childOf_attach hj] at hk
    split_ifs at hk with hi hij
    · rw [hm] at hk
      cases hk
    · obtain ⟨rfl, rfl⟩ := hij
      cases hk
      exact ⟨p, hold hp, hnew⟩
    · obtain ⟨q, hq, hqc⟩ := h.child i c k hk
      exact ⟨q, hold hq, hold hqc⟩
  case leaf =>
    intro i s hs
    rw [leafSym_attach hj] at hs
    split_ifs at hs with hi
    · obtain ⟨hmem, heq⟩ := hleaf s hs
      exact ⟨hmem, by rw [hi, heq, hnew]⟩
    · obtain ⟨hmem, hpath⟩ := h.leaf i s hs
      exact ⟨hdone hmem, hold hpath⟩
  case inner =>
    intro i q hq hs
    rw [leafSym_attach hj] at hs
    split_ifs at hs with hi
    · rw [hi, hnew] at hq
      cases hq
      exact hinner hs
    · refine h.inner i q ?_ hs
      rwa [List.getElem?_append_left] at hq
      have hlt := (List.getElem?_eq_some_iff.mp hq).1
      rw [List.length_append, List.length_singleton, h.length] at hlt
      rw [h.length]
      omega

section
variable (h : TrieInv codes syms done t paths) (hp : paths[j]? = some p) {l r : Option Nat}
  (hj : t[j]? = some (.inner l r)) (hnone : childOf t j b = none) {s : Nat}
include h hp hj hnone

/-- A node on the way to a code takes one missing child and brings two, which share its part of the Kraft sum. -/
theorem TrieInv.attach_inner (hs : s ∈ syms) (hpre : p ++ [b] <+: codes s) (hne : p ++ [b] ≠ codes s)
    (hlen : p.length < 255) :
    TrieInv codes syms done (attach t j b (.inner none none)) (paths ++ [p ++ [b]]) where
  toTriePaths := h.attach_node hp hj (List.Subset.refl _) (fun c => by cases c <;> rfl) (fun _ h => nomatch h)
    fun _ => ⟨s, hs, hpre, hne⟩
  share := by
    have hattach := missingShare_attach h.length hj hp hnone (.inner none none) (p ++ [b])
    have hhalf : 2 * childShare (p ++ [b]) = childShare p := by
      rw [childShare, childShare, ← Nat.pow_succ', List.length_append, List.length_singleton, Nat.succ_eq_add_one,
        show 255 - (p.length + 1) + 1 = 255 - p.length by omega]
    have hshare := h.share
    rw [show (TrieNode.inner none none).missing = 2 from rfl] at hattach
    omega
  count := by
    have hattach := missingCount_attach h.length hj hp hnone (.inner none none) (p ++ [b])
    have hcount := h.count
    rw [show (TrieNode.inner none none).missing = 2 from rfl] at hattach
    rw [attach_length]
    omega

/-- A leaf takes one missing child's place, and its part of the Kraft sum. -/
theorem TrieInv.attach_leaf (hcode : p ++ [b] = codes s) :
    TrieInv codes syms (s :: done) (attach t j b (.leaf s)) (paths ++ [p ++ [b]]) where
  toTriePaths := h.attach_node hp hj (List.subset_cons_self _ _) (fun _ => rfl)
    (fun s' hs' => by
      cases hs'
      exact ⟨List.mem_cons_self, hcode.symm⟩)
    (fun h => nomatch h)
  share := by
    have hattach := missingShare_attach h.length hj hp hnone (.leaf s) (p ++ [b])
    have hpart : 2 ^ (256 - (codes s).length) = childShare p := by
      rw [← hcode, List.length_append, List.length_singleton, childShare, Nat.add_sub_add_right 255 1]
    have hshare := h.share
    rw [show (TrieNode.leaf s).missing = 0 from rfl] at hattach
    rw [takenShare, List.map_cons, List.sum_cons, hpart]
    rw [takenShare] at hshare
    omega
  count := by
    have hattach := missingCount_attach h.length hj hp hnone (.leaf s) (p ++ [b])
    have hcount := h.count
    rw [show (TrieNode.leaf s).missing = 0 from rfl] at hattach
    rw [attach_length, List.length_cons]
    omega

end

section
variable (hcode : PrefixCode codes syms) (hdone : done ⊆ syms) (h : TriePaths codes syms done t paths)
  (hp : paths[j]? = some p) {s : Nat} (hs : s ∈ syms) (hnew : s ∉ done)
include hcode hdone h hp hs hnew

/-- The walk along a code that is not in the tree yet meets no leaf: the code would begin with that leaf's. -/
theorem TriePaths.walk_inner (hpre : p <+: codes s) : ∃ l r, t[j]? = some (.inner l r) := by
  refine exists_inner_of_leafSym_eq_none (h.lt_length hp) (Option.eq_none_iff_forall_ne_some.mpr fun u hu => ?_)
  obtain ⟨hmem, hpath⟩ := h.leaf j u hu
  rw [hp, Option.some_inj] at hpath
  exact hcode.not_prefix u (hdone hmem) s hs (fun he => hnew (he ▸ hmem)) (hpath ▸ hpre)

/-- The place of a code that is not in the tree yet is free: a node there would be its leaf, or on the way to a longer
code. -/
theorem TriePaths.walk_end (heq : p ++ [b] = codes s) : childOf t j b = none := by
  refine Option.eq_none_iff_forall_ne_some.mpr fun c hc => ?_
  obtain ⟨q, hq, hqc⟩ := h.child j b c hc
  obtain rfl : p = q := Option.some_inj.mp (hp.symm.trans hq)
  rw [heq] at hqc
  obtain ⟨l, r, hinner⟩ := h.walk_inner hcode hdone hqc hs hnew List.prefix_rfl
  obtain ⟨u, hu, hpre, hne⟩ := h.inner c (codes s) hqc (by simp [leafSym, hinner])
  exact hcode.not_prefix s hs u hu (fun he => hne (by rw [he])) hpre

end

/-- The inner loop of BuildTree (R232): inserting a new code of the set keeps the invariant. -/
theorem TrieInv.insert (hcode : PrefixCode codes syms) (hdone : done ⊆ syms) {s : Nat} (hs : s ∈ syms)
    (hnew : s ∉ done) {bits : List Bool} (hbits : bits ≠ []) (h : TrieInv codes syms done t paths)
    (hp : paths[j]? = some p) (heq : p ++ bits = codes s) :
    ∃ paths', TrieInv codes syms (s :: done) (insertCode s bits j t) paths' := by
  induction bits generalizing j t paths p with
  | nil => exact absurd rfl hbits
  | cons b rest ih =>
    obtain ⟨l, r, hj⟩ := h.walk_inner hcode hdone hp hs hnew ⟨_, heq⟩
    cases rest with
    | nil => exact ⟨_, h.attach_leaf hp hj (h.walk_end hcode hdone hp hs hnew heq) heq⟩
    | cons b' rest =>
      have heq' : p ++ [b] ++ b' :: rest = codes s := by simpa using heq
      rw [insertCode.eq_def]
      simp only
      cases hc : childOf t j b with
      | some c =>
        obtain ⟨q, hq, hqc⟩ := h.child j b c hc
        obtain rfl : p = q := Option.some_inj.mp (hp.symm.trans hq)
        exact ih (by simp) h hqc heq'
      | none =>
        have hlen := congrArg List.length heq'
        have hle := hcode.length_le s hs
        simp only [List.length_append, List.length_cons] at hlen
        refine ih (by simp) (h.attach_inner hp hj hc hs ⟨_, heq'⟩ (fun he => ?_) (by omega)) ?_ heq'
        · rw [he] at heq'
          simp at heq'
        · simp [← h.length]

/-- BuildTree (R232): after every code of the set, the invariant holds with all of them in the tree. -/
theorem TrieInv.foldl_insert (hcode : PrefixCode codes syms) {todo : List Nat} (htodo : todo ⊆ syms)
    (hnodup : todo.Nodup) (hdone : done ⊆ syms) (hnew : ∀ s ∈ todo, s ∉ done) (h : TrieInv codes syms done t paths) :
    ∃ paths', TrieInv codes syms (todo.reverse ++ done)
      (todo.foldl (fun t s => insertCode s (codes s) 0 t) t) paths' := by
  induction todo generalizing done t paths with
  | nil => exact ⟨paths, h⟩
  | cons s todo ih =>
    obtain ⟨hs, htodo⟩ := List.cons_subset.mp htodo
    obtain ⟨hmem, hnodup⟩ := List.nodup_cons.mp hnodup
    obtain ⟨paths', h'⟩ := h.insert hcode hdone hs (hnew s (by simp)) (hcode.ne_nil s hs) h.root rfl
    rw [List.foldl_cons, List.reverse_cons, List.append_assoc]
    refine ih htodo hnodup (List.cons_subset.mpr ⟨hs, hdone⟩) (fun u hu => ?_) h'
    exact List.not_mem_cons_of_ne_of_not_mem (fun he => hmem (he ▸ hu)) (hnew u (by simp [hu]))

end

/-! ## The tree of a length table -/

theorem mem_codedSyms {len : List Nat} {s : Nat} : s ∈ codedSyms len ↔ s < 256 ∧ 0 < tableAt len s := by
  simp [codedSyms]

@[simp] theorem codeBits_length (len code : List Nat) (s : Nat) : (codeBits len code s).length = tableAt len s :=
  bitsMsb_length _ _

/-- The canonical codes of a table that fits, as a code over its present symbols (R109). -/
theorem FitsKraft.prefixCode {len : List Nat} (hlen : FitsKraft len) :
    PrefixCode (codeBits len (canonCodes len)) (codedSyms len) where
  ne_nil s hs := by
    have := (mem_codedSyms.mp hs).2
    rw [← List.length_pos_iff, codeBits_length]
    exact this
  length_le s _ := by
    rw [codeBits_length]
    exact hlen.tableAt_le s
  not_prefix s hs t ht hne := hlen.codeBits_not_prefix (mem_codedSyms.mp hs).2 (mem_codedSyms.mp ht).2 hne

/-- The decoder tree holds every code of the table (R232). -/
theorem FitsKraft.buildTrie_inv {len : List Nat} (hlen : FitsKraft len) (hne : codedSyms len ≠ []) :
    ∃ paths, TrieInv (codeBits len (canonCodes len)) (codedSyms len) (codedSyms len).reverse
      (buildTrie len (canonCodes len)) paths := by
  obtain ⟨s, hs⟩ := List.exists_mem_of_ne_nil _ hne
  have hroot := TrieInv.root_only hlen.prefixCode hs
  obtain ⟨paths, h⟩ := hroot.foldl_insert hlen.prefixCode (List.Subset.refl _)
    (List.nodup_range.filter _) (List.nil_subset _) (by simp)
  rw [List.append_nil] at h
  exact ⟨paths, h⟩

/-- The lengths of the present symbols, by symbol. -/
theorem presentLengths_eq_map {len : List Nat} (hlen : len.length = 256) :
    presentLengths len = (codedSyms len).map (tableAt len) := by
  have hall : (List.range 256).map (tableAt len) = len := by
    refine List.ext_getElem (by simp [hlen]) fun i _ hi => ?_
    simp [tableAt_eq_getElem hi]
  conv_lhs => rw [presentLengths, ← hall, List.filter_map]
  rfl

/-- The codes take their Kraft sum (R108). -/
theorem takenShare_eq {len : List Nat} (hlen : FitsKraft len) (h256 : len.length = 256) (code : List Nat) :
    takenShare (codeBits len code) (codedSyms len).reverse = 2 * kraft len := by
  rw [takenShare, List.map_reverse, List.sum_reverse, kraft, presentLengths_eq_map h256, List.map_map,
    ← List.sum_map_mul_left]
  refine congrArg List.sum (List.map_congr_left fun s _ => ?_)
  have hle := hlen.tableAt_le s
  rw [codeBits_length, Function.comp_apply, ← Nat.pow_succ', Nat.succ_eq_add_one]
  congr 1
  omega

theorem codedSyms_length_le (len : List Nat) : (codedSyms len).length ≤ 256 := by
  simpa [codedSyms] using List.length_filter_le (fun s => decide (0 < tableAt len s)) (List.range 256)

/-- A complete code leaves no place free, so every inner node has two children (R110, R232). -/
theorem buildTrie_length_of_kraft {len : List Nat} (h256 : len.length = 256) (hle : ∀ l ∈ len, l ≤ 255)
    (hk : kraft len = 2 ^ 255) : (buildTrie len (canonCodes len)).length + 1 = 2 * (codedSyms len).length := by
  have hlen : FitsKraft len := ⟨hle, hk.le⟩
  have hne : codedSyms len ≠ [] := by
    intro h
    rw [kraft, presentLengths_eq_map h256, h] at hk
    simp at hk
  obtain ⟨paths, h⟩ := hlen.buildTrie_inv hne
  have hshare := h.share
  have hcount := h.count
  have hmissing := missingCount_le_missingShare (buildTrie len (canonCodes len)) paths
  rw [takenShare_eq hlen h256, hk] at hshare
  rw [List.length_reverse] at hcount
  omega

/-- The code of one symbol, of length 1, has a root and a leaf (R232). -/
theorem buildTrie_length_of_single {len : List Nat} (h256 : len.length = 256) (h : presentLengths len = [1]) :
    (buildTrie len (canonCodes len)).length = 2 := by
  rw [presentLengths_eq_map h256, List.map_eq_singleton_iff] at h
  obtain ⟨s, hs, hone⟩ := h
  rw [buildTrie, hs, List.foldl_cons, List.foldl_nil, codeBits, hone]
  simp [bitsMsb, insertCode_singleton]

/-- What the completeness test of R229 accepts. -/
theorem completeLengths_cases {len : List Nat} {symCount : Nat} (h : completeLengths len symCount = true) :
    presentLengths len = [1] ∨ kraft len = 2 ^ 255 := by
  unfold completeLengths at h
  split at h
  · exact .inl (of_decide_eq_true h)
  · exact .inr (of_decide_eq_true h)

/-- A table the decoder accepts: 256 lengths of at most 255 bits that pass the completeness test (R227 to R229). -/
structure AcceptedLengths (len : List Nat) : Prop where
  length : len.length = 256
  le : ∀ l ∈ len, l ≤ 255
  complete : presentLengths len = [1] ∨ kraft len = 2 ^ 255

section
variable {len : List Nat} (h : AcceptedLengths len)
include h

theorem AcceptedLengths.fitsKraft : FitsKraft len where
  le := h.le
  kraft := by
    rcases h.complete with hone | hk
    · rw [kraft, hone]
      decide
    · exact hk.le

theorem AcceptedLengths.codedSyms_ne_nil : codedSyms len ≠ [] := by
  intro hnil
  have hpresent := presentLengths_eq_map h.length
  rw [hnil, List.map_nil] at hpresent
  rcases h.complete with hone | hk
  · simp [hpresent] at hone
  · simp [kraft, hpresent] at hk

/-- The decoder tree fits its 511 places (R41, R232). -/
theorem AcceptedLengths.buildTrie_length_le : (buildTrie len (canonCodes len)).length ≤ 511 := by
  rcases h.complete with hone | hk
  · rw [buildTrie_length_of_single h.length hone]
    decide
  · have hlength := buildTrie_length_of_kraft h.length h.le hk
    have hsyms := codedSyms_length_le len
    omega

/-- The decoder tree is stored without loss (R41). -/
theorem AcceptedLengths.buildTrie_load_store :
    ((buildTrie len (canonCodes len)).map TrieNode.store).map DecNode.load = buildTrie len (canonCodes len) := by
  obtain ⟨paths, hinv⟩ := h.fitsKraft.buildTrie_inv h.codedSyms_ne_nil
  have hsize := h.buildTrie_length_le
  have hchild {j c : Nat} {b : Bool} (hc : childOf (buildTrie len (canonCodes len)) j b = some c) : c < 2 ^ 9 := by
    obtain ⟨p, -, hpath⟩ := hinv.child j b c hc
    have := hinv.lt_length hpath
    omega
  rw [List.map_map]
  refine (List.map_congr_left fun n hn => ?_).trans (List.map_id' _)
  obtain ⟨j, hj⟩ := List.mem_iff_getElem?.mp hn
  cases n with
  | leaf s =>
    obtain ⟨hs, -⟩ := hinv.leaf j s (by simp [leafSym, hj])
    exact DecNode.load_store_leaf s (mem_codedSyms.mp (List.mem_reverse.mp hs)).1
  | inner l r =>
    exact DecNode.load_store_inner l r
      (fun k hk => hchild (j := j) (b := false) (by simpa [childOf, hj] using hk))
      (fun k hk => hchild (j := j) (b := true) (by simpa [childOf, hj] using hk))

end

/-! ## What a parsed container gives -/

theorem parseTable_le {entries : List (Nat × Nat)} {prev : Option Nat} {len t : List Nat}
    (hlen : ∀ l ∈ len, l ≤ 255) (hentries : ∀ e ∈ entries, e.2 ≤ 255) (h : parseTable entries prev len = .ok t) :
    ∀ l ∈ t, l ≤ 255 := by
  induction entries generalizing prev len with
  | nil =>
    cases h
    exact hlen
  | cons e rest ih =>
    obtain ⟨sym, l⟩ := e
    simp only [parseTable] at h
    split_ifs at h
    refine ih (fun x hx => ?_) (fun e he => hentries e (by simp [he])) h
    rcases List.mem_or_eq_of_mem_set hx with hx | rfl
    · exact hlen x hx
    · exact hentries (sym, x) (by simp)

/-- A length in SYMTAB is a byte (R102). -/
theorem symEntries_le (x : List Byte) : ∀ e ∈ symEntries x, e.2 ≤ 255 := by
  intro e he
  obtain ⟨i, -, rfl⟩ := List.mem_map.mp he
  exact Nat.le_of_lt_succ (BitVec.isLt _)

@[simp] theorem bytesBits_length (y : List Byte) : (bytesBits y).length = 8 * y.length := by
  induction y with
  | nil => rfl
  | cons b y ih =>
    simp only [bytesBits, List.flatMap_cons, List.length_append, bitsMsb_length, List.length_cons] at ih ⊢
    omega

theorem parseBody_stream {x : List Byte} {n : Nat} {len : List Nat} {bits : List Bool}
    (h : parseBody x = .ok (.stream n len bits)) : AcceptedLengths len ∧ bits.length ≤ 8 * x.length := by
  have h256 := parseBody_stream_length h
  unfold parseBody at h
  cases ht : parseTable (symEntries x) none zeroTable with
  | error c =>
    simp only [ht] at h
    split_ifs at h
  | ok t =>
    simp only [ht] at h
    split_ifs at h with hpad hcomplete hbits
    cases h
    refine ⟨⟨h256, ?_, completeLengths_cases (by simpa using hcomplete)⟩, ?_⟩
    · refine parseTable_le (fun l hl => ?_) (symEntries_le x) ht
      simp [List.eq_of_mem_replicate hl]
    · simp [bodyBytes]
      omega

/-- The lengths and the bits of a container that passes the checks. -/
theorem parse_stream {x : List Byte} {n : Nat} {len : List Nat} {bits : List Bool}
    (h : parse x = .ok (.stream n len bits)) : AcceptedLengths len ∧ bits.length ≤ 8 * x.length := by
  unfold parse at h
  split_ifs at h
  · cases h
  · exact parseBody_stream h

/-- Every symbol the unpacker emits takes at least one bit (R234). -/
theorem unpack_emitted_length_le (t : List TrieNode) (bits : List Bool) (j n : Nat) :
    (unpack t bits j n).emitted.length ≤ bits.length := by
  induction bits generalizing j n with
  | nil => cases n <;> simp [unpack]
  | cons b rest ih =>
    cases n with
    | zero => simp [unpack]
    | succ k =>
      rw [unpack]
      split
      · simp
      · next c hc =>
        split
        · have := ih 0 k
          simp [Walk.emit]
          omega
        · have := ih c (k + 1)
          simp
          omega

/-! ## The registers after a command -/

/-- A table whose entries fit is stored without loss. -/
theorem map_toNat_map_ofNat {w : Nat} {l : List Nat} (h : ∀ x ∈ l, x < 2 ^ w) :
    (l.map (BitVec.ofNat w)).map BitVec.toNat = l := by
  rw [List.map_map]
  exact (List.map_congr_left fun x hx => Nat.mod_eq_of_lt (h x hx)).trans (List.map_id _)

@[simp] theorem State.input_length (s : State) : s.input.length = s.inLen.toNat := by simp [State.input]

/-- With legal sizes an input has at most 2^27 bytes (R8, R30). -/
theorem State.Inv.input_length_le {s : State} (h : s.Inv) : s.input.length ≤ 2 ^ 27 := by
  obtain ⟨-, hsize, -⟩ := (Params.legal_iff _).mp h.params
  rw [State.input_length]
  exact h.inLen.trans hsize

theorem State.complete_outLen_encode {s : State} (h : s.engine.phase.isEncoder = true) :
    s.complete.outLen = BitVec.ofNat 32 (huffEncode s.input).length := by
  rw [State.complete, if_pos h, State.completeEncode, State.publish_outLen]

theorem State.complete_engine_encode {s : State} (h : s.engine.phase.isEncoder = true) :
    s.complete.engine = { s.engine.runEncode s.input with phase := .idle } := by
  rw [State.complete_engine, if_pos h]

theorem State.complete_engine_decode {s : State} (h : s.engine.phase.isEncoder = false) :
    s.complete.engine = { s.engine.runDecode s.input with phase := .idle } := by
  rw [State.complete_engine, if_neg (by simp [h])]

/-- COMPRESS writes FREQ in every case (R170, R173). -/
theorem Engine.runEncode_freq (g : Engine) (inp : List Byte) :
    (g.runEncode inp).freq = (freqOf inp).map (BitVec.ofNat 32) := by
  cases inp <;> rfl

/-- A COMPRESS of a non-empty input runs all four phases (R170). -/
theorem Engine.runEncode_of_ne_nil (g : Engine) {inp : List Byte} (h : inp ≠ []) :
    g.runEncode inp = (((g.encCount inp).encBuild inp).encCodes inp).encWrite inp := by
  cases inp with
  | nil => exact absurd rfl h
  | cons => rfl

/-- A DECOMPRESS that reaches the unpacker runs all three phases (R220). -/
theorem Engine.runDecode_of_stream (g : Engine) {x : List Byte} {n : Nat} {len : List Nat} {bits : List Bool}
    (h : parse x = .ok (.stream n len bits)) :
    g.runDecode x = ((g.decParse len).decBuild len).decUnpack bits.length (unpackStream n len bits) := by
  unfold Engine.runDecode
  rw [h]

theorem freq_load_store {inp : List Byte} (h : inp.length ≤ 2 ^ 27) :
    ((freqOf inp).map (BitVec.ofNat 32)).map BitVec.toNat = freqOf inp :=
  map_toNat_map_ofNat fun x hx => by
    have := freqOf_le inp x hx
    omega

theorem tree_load_store {inp : List Byte} (h : inp.length ≤ 2 ^ 27) :
    ((buildTree (freqOf inp) (inputSyms inp)).map HuffNode.store).map EncNode.load =
      buildTree (freqOf inp) (inputSyms inp) := by
  rw [List.map_map]
  exact (List.map_congr_left fun x hx => (buildTree_within inp x hx).load_store (by omega)).trans (List.map_id _)

/-- A table of lengths is stored without loss (R38). -/
theorem FitsKraft.len_load_store {len : List Nat} (hlen : FitsKraft len) :
    (len.map (BitVec.ofNat 8)).map BitVec.toNat = len :=
  map_toNat_map_ofNat fun l hl => Nat.lt_succ_of_le (hlen.le l hl)

/-- The canonical codes of a table are stored without loss (R38). -/
theorem FitsKraft.code_load_store {len : List Nat} (hlen : FitsKraft len) :
    ((canonCodes len).map (BitVec.ofNat 255)).map BitVec.toNat = canonCodes len :=
  map_toNat_map_ofNat fun c hc => by
    obtain ⟨s, hs, rfl⟩ := List.getElem_of_mem hc
    rw [← tableAt_eq_getElem hs]
    exact hlen.canonCodes_lt_two_pow s

/-- ACC and NACC are stored without loss, and hold the bits of the stream that fill no byte (R39, R182). -/
theorem packRest_load_store (bits : List Bool) :
    (BitVec.ofNat 3 (packRest bits 0 0).2).toNat = bits.length % 8 ∧
    (BitVec.ofNat 8 (packRest bits 0 0).1).toNat < 2 ^ (BitVec.ofNat 3 (packRest bits 0 0).2).toNat ∧
    bitsMsb (BitVec.ofNat 3 (packRest bits 0 0).2).toNat (BitVec.ofNat 8 (packRest bits 0 0).1).toNat =
      bits.drop (8 * (bits.length / 8)) := by
  obtain ⟨hnacc, hacc, hbits⟩ := packRest_spec bits (acc := 0) (nacc := 0) (by decide) (by decide)
  rw [Nat.zero_add] at hnacc hbits
  have hn : (packRest bits 0 0).2 < 2 ^ 3 := by omega
  have ha : (packRest bits 0 0).1 < 2 ^ 8 := hacc.trans_le (Nat.pow_le_pow_right (by decide) (by omega))
  rw [BitVec.toNat_ofNat, BitVec.toNat_ofNat, Nat.mod_eq_of_lt hn, Nat.mod_eq_of_lt ha]
  exact ⟨hnacc, hacc, hbits⟩

/-- The positions of the unpacker are stored without loss (R40, R234, R238). -/
theorem unpackStream_load_store {n : Nat} {len : List Nat} {bits : List Bool} (h : bits.length < 2 ^ 32) :
    (BitVec.ofNat 32 (bits.length - (unpackStream n len bits).left)).toNat =
      bits.length - (unpackStream n len bits).left ∧
    (BitVec.ofNat 32 (unpackStream n len bits).emitted.length).toNat = (unpackStream n len bits).emitted.length := by
  have hemitted := unpack_emitted_length_le (buildTrie len (canonCodes len)) bits 0 n
  exact ⟨Nat.mod_eq_of_lt (by omega), Nat.mod_eq_of_lt (Nat.lt_of_le_of_lt hemitted h)⟩

/-- Settles O19: the completion leaves what the last phases of its command wrote, and each value fits its register. -/
theorem workingRegistersAfterCommand : Obligations.WorkingRegistersAfterCommand := by
  intro s hinv hr hb
  have hinput := hinv.input_length_le
  have hturn : s.engineTurn = s.complete := by simp [State.engineTurn, hr, hb]
  rw [hturn]
  refine ⟨fun hphase => ?_, fun hphase hne => ?_, fun hphase n len bits hparse => ?_⟩
  · rw [State.complete_engine_encode (by rw [hphase]; rfl)]
    simpa only [Engine.runEncode_freq] using freq_load_store hinput
  · have henc : s.engine.phase.isEncoder = true := by rw [hphase]; rfl
    have hlen := inputLengths_fitsKraft s.input
    obtain ⟨hnacc, hacc, hbits⟩ := packRest_load_store (streamBits (inputLengths s.input) (inputCodes s.input) s.input)
    rw [State.complete_engine_encode henc, State.complete_outLen_encode henc, Engine.runEncode_of_ne_nil _ hne]
    refine ⟨tree_load_store hinput, hlen.len_load_store, hlen.code_load_store, hnacc, hacc, hbits, ?_, rfl⟩
    show BitVec.ofNat 32 s.input.length = s.inLen
    rw [State.input_length, BitVec.ofNat_toNat, BitVec.setWidth_eq]
  · obtain ⟨haccepted, hbits⟩ := parse_stream hparse
    obtain ⟨hbpos, hnout⟩ := unpackStream_load_store (n := n) (len := len) (bits := bits) (by omega)
    rw [State.complete_engine_decode (by rw [hphase]; rfl), Engine.runDecode_of_stream _ hparse]
    exact ⟨haccepted.fitsKraft.len_load_store, haccepted.fitsKraft.code_load_store, haccepted.buildTrie_load_store,
      hbpos, hnout⟩

end Sys2Proof.Machine

/-! PROOF. The statements of 20_memory.md: reads have no effect, a write to an IBUF word changes that word alone, the windows
are locked while BUSY, and every output lies in OBUF. The last needs the bounds of the encoder and of the decoder: a decoded
byte takes a bit of the input, and an encoded byte takes at most 8 bits on average, since the merge loop spends no more than a
flat tree of depth 8 over the 256 symbols would. -/

namespace Sys2Proof.Machine

/-! ## Reads -/

/-- The answer to a read depends on no earlier answer. -/
@[simp] theorem State.respond_readAnswer (s : State) (d : BusAnswer) (a : Word) :
    (s.respond d).readAnswer a = s.readAnswer a := rfl

/-- Settles O36: a read only puts its answer on the bus, and no answer depends on the bus. -/
theorem readsChangeNothing : Obligations.ReadsChangeNothing := by
  intro s a b
  refine ⟨⟨s.readAnswer a, rfl, rfl⟩, fun t ht => ?_⟩
  cases ht
  exact s.respond_readAnswer _ a

/-! ## A write to an IBUF word -/

/-- The word just written reads back (R152, R153). -/
@[simp] theorem State.ibufWord_writeIbufWord_same (s : State) (i : Nat) (w : Word) :
    (s.writeIbufWord i w).ibufWord i = w := by
  simp [State.ibufWord, State.ibufByte_writeIbufWord, packWord_wordByte]

/-- Another word keeps its four bytes, since words are aligned (R63, R152). -/
theorem State.ibufWord_writeIbufWord_other (s : State) {i j : Nat} (w : Word) (hi : i % 4 = 0) (hj : j % 4 = 0)
    (hne : j ≠ i) : (s.writeIbufWord i w).ibufWord j = s.ibufWord j := by
  have hkept (k : Nat) (hk : k < 4) : (s.writeIbufWord i w).ibufByte (j + k) = s.ibufByte (j + k) := by
    rw [State.ibufByte_writeIbufWord, if_neg (by omega), if_neg (by omega), if_neg (by omega), if_neg (by omega)]
  have h0 := hkept 0 (by decide)
  have h1 := hkept 1 (by decide)
  have h2 := hkept 2 (by decide)
  have h3 := hkept 3 (by decide)
  rw [Nat.add_zero] at h0
  simp only [State.ibufWord, h0, h1, h2, h3]

theorem State.readAnswer_writeIbufWord_same {s : State} {a : Word} {i : Nat} (w : Word)
    (ha : locate s.params a = .ibuf i) (hb : s.status.busy = false) :
    (s.writeIbufWord i w).readAnswer a = .read .okay w := by
  have ha' : locate (s.writeIbufWord i w).params a = .ibuf i := ha
  simp [State.readAnswer, ha', hb]

/-- Every other address reads as before: a register and OBUF are not written, and another IBUF word is kept. -/
theorem State.readAnswer_writeIbufWord_other {s : State} {a b : Word} {i : Nat} (w : Word)
    (ha : locate s.params a = .ibuf i) (hne : b ≠ a) :
    (s.writeIbufWord i w).readAnswer b = s.readAnswer b := by
  unfold State.readAnswer
  rw [show (s.writeIbufWord i w).params = s.params from rfl]
  cases hl : locate s.params b with
  | reg r => cases r <;> rfl
  | ibuf j =>
    obtain ⟨hai, hi, -⟩ := (locate_ibuf_iff _ _ _).mp ha
    obtain ⟨hbj, hj, -⟩ := (locate_ibuf_iff _ _ _).mp hl
    have hij : j ≠ i := fun h => hne (BitVec.eq_of_toNat_eq (by rw [hai, hbj, h]))
    simp only [State.writeIbufWord_status, s.ibufWord_writeIbufWord_other w hi hj hij]
  | obuf j => rfl
  | misaligned => rfl
  | unmapped => rfl

/-- An aligned address in the IBUF window leads to its word (R61, R63). -/
theorem locate_ibuf_of_window {p : Params} (hp : p.legal = true) {a : Word} (h4 : a.toNat % 4 = 0)
    (hlo : 0x40000000 ≤ a.toNat) (hhi : a.toNat < 0x40000000 + p.ibufSize) :
    locate p a = .ibuf (a.toNat - 0x40000000) := by
  obtain ⟨-, hsize, -⟩ := (Params.legal_iff _).mp hp
  exact (locate_ibuf_iff _ _ _).mpr (by omega)

/-- An aligned address in the OBUF window leads to its word (R61, R64). -/
theorem locate_obuf_of_window {p : Params} (hp : p.legal = true) {a : Word} (h4 : a.toNat % 4 = 0)
    (hlo : 0x80000000 ≤ a.toNat) (hhi : a.toNat < 0x80000000 + p.obufSize) :
    locate p a = .obuf (a.toNat - 0x80000000) := by
  obtain ⟨-, -, -, -, hsize, -⟩ := (Params.legal_iff _).mp hp
  exact (locate_obuf_iff _ _ _).mpr (by omega)

theorem State.transact_write_ibuf {s : State} {a : Word} {i : Nat} (w : Word) (ha : locate s.params a = .ibuf i)
    (hb : s.status.busy = false) :
    s.transact (.write a w) = .next ((s.writeIbufWord i w).respond (.write .okay)) := by
  simp [State.transact, State.writeWord, ha, hb]

/-- Settles O35: the written word reads back, and every other address reads what the write does not touch. -/
theorem writeThenRead : Obligations.WriteThenRead := by
  intro s t a w hp hb h4 hlo hhi ht
  obtain ⟨i, ha⟩ : ∃ i, locate s.params a = .ibuf i := ⟨_, locate_ibuf_of_window hp h4 hlo hhi⟩
  cases (State.transact_write_ibuf w ha hb).symm.trans ht
  simp only [State.respond_readAnswer]
  exact ⟨State.readAnswer_writeIbufWord_same w ha hb, fun b hne => State.readAnswer_writeIbufWord_other w ha hne⟩

/-! ## Accesses while BUSY -/

/-- A write to a register's own address is the write to that register (R62). -/
theorem State.transact_write_reg (s : State) (r : Reg) (w : Word) : s.transact (.write r.addr w) = s.writeReg r w := by
  simp only [State.transact, State.writeWord, (locate_reg_iff s.params r.addr r).mpr rfl]

/-- Every register but CMD and IN_LEN takes a write at any time (R147, R148, R150). -/
theorem State.writeReg_okay (s : State) {r : Reg} (w : Word) (hcmd : r ≠ .cmd) (hlen : r ≠ .inLen) :
    ∃ t, s.writeReg r w = .next t ∧ t.bus = some (.write .okay) := by
  cases r with
  | cmd => exact absurd rfl hcmd
  | inLen => exact absurd rfl hlen
  | id | ibufSize | obufSize | ctrl | status | outLen => exact ⟨_, rfl, rfl⟩

section
variable {s : State} (hb : s.status.busy = true)
include hb

/-- A window word answers no access while BUSY (R71). -/
theorem State.transact_window_busy (hp : s.params.legal = true) {a : Word} (w : Word) (h4 : a.toNat % 4 = 0)
    (ha : inWindow s.params a.toNat) :
    s.transact (.read a) = .next (s.respond readError) ∧
    s.transact (.write a w) = .next (s.respond (.write .slverr)) := by
  rcases ha with ⟨hlo, hhi⟩ | ⟨hlo, hhi⟩
  · simp [State.transact, State.readAnswer, State.writeWord, locate_ibuf_of_window hp h4 hlo hhi, hb]
  · simp [State.transact, State.readAnswer, State.writeWord, locate_obuf_of_window hp h4 hlo hhi, hb]

theorem writeCmd_busy (w : Word) : writeCmd w s = .next (s.respond (.write .slverr)) := by
  rcases writeCmd_cases s w with ⟨-, h⟩ | ⟨hidle, -⟩ | ⟨hidle, -⟩
  · exact h
  · simp [hb] at hidle
  · simp [hb] at hidle

theorem State.writeInLen_busy (w : Word) : s.writeInLen w = s.respond (.write .slverr) := by
  simp [State.writeInLen, hb]

end

/-- Settles O38: the windows and the writes to CMD and IN_LEN ask for BUSY, the other register accesses do not. -/
theorem busyLockout : Obligations.BusyLockout := by
  intro s hp hb
  refine ⟨fun a w h4 ha => State.transact_window_busy hb hp w h4 ha, fun r => ⟨s.readReg r, ?_⟩,
    fun r w hcmd hlen => ?_, fun w => ⟨?_, ?_⟩⟩
  · rw [State.transact, s.readAnswer_reg]
    rfl
  · rw [s.transact_write_reg]
    exact s.writeReg_okay w hcmd hlen
  · exact (s.transact_write_reg .cmd w).trans (writeCmd_busy hb w)
  · exact (s.transact_write_reg .inLen w).trans (congrArg _ (State.writeInLen_busy hb w))

/-! ## The unmerged nodes are in the order of their weights -/

/-- The weights of the unmerged nodes rise. -/
def Ascending (l : List Active) : Prop := l.Pairwise fun a b => a.1 ≤ b.1

theorem le_of_comesBefore {a b : Active} (h : comesBefore a b = true) : a.1 ≤ b.1 := by
  simp only [comesBefore, Bool.or_eq_true, Bool.and_eq_true, decide_eq_true_eq] at h
  omega

theorem le_of_not_comesBefore {a b : Active} (h : ¬ comesBefore a b = true) : b.1 ≤ a.1 := by
  simp only [comesBefore, Bool.or_eq_true, Bool.and_eq_true, decide_eq_true_eq] at h
  omega

/-- Sorting a node in keeps the order (R176). -/
theorem Ascending.insertActive {l : List Active} (h : Ascending l) (x : Active) : Ascending (insertActive x l) := by
  induction l with
  | nil => exact List.pairwise_singleton _ _
  | cons y l ih =>
    obtain ⟨hy, hl⟩ := List.pairwise_cons.mp h
    unfold Machine.insertActive
    split
    · next hxy =>
      have hle := le_of_comesBefore hxy
      refine List.pairwise_cons.mpr ⟨fun z hz => ?_, h⟩
      rcases List.mem_cons.mp hz with rfl | hz
      · exact hle
      · exact hle.trans (hy z hz)
    · next hxy =>
      refine List.pairwise_cons.mpr ⟨fun z hz => ?_, ih hl⟩
      rcases List.mem_cons.mp ((insertActive_perm x l).mem_iff.mp hz) with rfl | hz
      · exact le_of_not_comesBefore hxy
      · exact hy z hz

theorem initialActive_ascending (leaves : List HuffNode) : Ascending (initialActive leaves) := by
  unfold initialActive
  induction leaves.zipIdx.map fun p => (p.1.weight, p.2) with
  | nil => exact List.Pairwise.nil
  | cons x l ih => exact ih.insertActive x

/-! ## The lightest nodes -/

/-- The weight of some nodes together. -/
def weightSum (l : List Active) : Nat := (l.map Prod.fst).sum

@[simp] theorem weightSum_cons (x : Active) (l : List Active) : weightSum (x :: l) = x.1 + weightSum l := rfl

theorem weightSum_insertActive (x : Active) (l : List Active) : weightSum (insertActive x l) = x.1 + weightSum l :=
  ((insertActive_perm x l).map Prod.fst).sum_eq

theorem weightSum_take_le (l : List Active) (j : Nat) : weightSum (l.take j) ≤ weightSum l :=
  ((List.take_sublist j l).map Prod.fst).sum_le_sum fun _ _ => Nat.zero_le _

/-- A lightest node in front makes the first `j` nodes no heavier. -/
theorem Ascending.weightSum_take_cons_le {x : Active} {l : List Active} (h : Ascending (x :: l)) {j : Nat}
    (hj : j ≤ l.length) : weightSum ((x :: l).take j) ≤ weightSum (l.take j) := by
  induction l generalizing x j with
  | nil =>
    obtain rfl : j = 0 := by simpa using hj
    exact Nat.le_refl _
  | cons y l ih =>
    cases j with
    | zero => exact Nat.le_refl _
    | succ j =>
      obtain ⟨hx, hl⟩ := List.pairwise_cons.mp h
      have hxy := hx y (by simp)
      have hrest := ih hl (j := j) (by simpa using hj)
      simp only [List.take_succ_cons, weightSum_cons] at hrest ⊢
      omega

/-- Sorting a node in makes the first `j` nodes no heavier. -/
theorem Ascending.weightSum_take_insertActive_le {l : List Active} (h : Ascending l) (x : Active) {j : Nat}
    (hj : j ≤ l.length) : weightSum ((Machine.insertActive x l).take j) ≤ weightSum (l.take j) := by
  induction l generalizing j with
  | nil =>
    obtain rfl : j = 0 := by simpa using hj
    exact Nat.le_refl _
  | cons y l ih =>
    have hsorted := h.insertActive x
    unfold Machine.insertActive at hsorted ⊢
    split
    · next hxy =>
      rw [if_pos hxy] at hsorted
      exact hsorted.weightSum_take_cons_le hj
    · cases j with
      | zero => exact Nat.le_refl _
      | succ j => exact Nat.add_le_add_left (ih (List.pairwise_cons.mp h).2 (by simpa using hj)) _

/-! ## The cost of the merges -/

/-- The depths of some nodes, each counted with its node's weight. -/
def weightedDepth (depth : List Nat) (l : List Active) : Nat := (l.map fun a => a.1 * tableAt depth a.2).sum

theorem weightedDepth_perm (depth : List Nat) {xs ys : List Active} (h : xs.Perm ys) :
    weightedDepth depth xs = weightedDepth depth ys := (h.map _).sum_eq

/-- Two nodes one below depth `d`, beside nodes that keep their depths. -/
theorem weightedDepth_children {depth : List Nat} {a b : Active} {rest : List Active} (d : Nat)
    (ha : a.2 < depth.length) (hb : b.2 < depth.length) (hnodup : ((a :: b :: rest).map Prod.snd).Nodup) :
    weightedDepth ((depth.set a.2 (d + 1)).set b.2 (d + 1)) (a :: b :: rest) =
      (a.1 + b.1) * (d + 1) + weightedDepth depth rest := by
  have hat (j : Nat) : tableAt ((depth.set a.2 (d + 1)).set b.2 (d + 1)) j =
      if b.2 = j then d + 1 else if a.2 = j then d + 1 else tableAt depth j := by
    rw [tableAt_set (by simpa using hb), tableAt_set ha]
  have hrest : ∀ c ∈ rest, c.1 * tableAt ((depth.set a.2 (d + 1)).set b.2 (d + 1)) c.2 = c.1 * tableAt depth c.2 := by
    intro c hc
    have hc' := List.mem_map_of_mem (f := Prod.snd) hc
    simp only [List.map_cons, List.nodup_cons, List.mem_cons, not_or] at hnodup
    obtain ⟨⟨-, hna⟩, hnb, -⟩ := hnodup
    rw [hat, if_neg fun (h : b.2 = c.2) => hnb (h ▸ hc'), if_neg fun (h : a.2 = c.2) => hna (h ▸ hc')]
  rw [weightedDepth, List.map_cons, List.map_cons, List.sum_cons, List.sum_cons, List.map_congr_left hrest, hat, hat]
  simp only [if_true, ite_self, weightedDepth]
  ring

/-- A merge costs the weight of its node: the two nodes merged lie one below it (R177, R179). -/
theorem mergeLoop_weightedDepth_succ (k : Nat) {a b : Active} {rest : List Active} {nodes : List HuffNode}
    (hin : ActiveIn (a :: b :: rest) nodes.length) :
    weightedDepth (depthsFrom (mergeLoop (k + 1) (a :: b :: rest) nodes) nodes.length) (a :: b :: rest) =
      a.1 + b.1 + weightedDepth (depthsFrom (mergeLoop k (insertActive (a.1 + b.1, nodes.length) rest)
        (nodes ++ [.inner (a.1 + b.1) a.2 b.2])) (nodes.length + 1)) (insertActive (a.1 + b.1, nodes.length) rest) := by
  have hprefix := mergeLoop_prefix k (insertActive (a.1 + b.1, nodes.length) rest)
    (nodes ++ [.inner (a.1 + b.1) a.2 b.2])
  have hnode := List.prefix_iff_getElem?.mp hprefix nodes.length (by simp)
  have hlong := hprefix.length_le
  have ha := hin.lt a (by simp)
  have hb := hin.lt b (by simp)
  simp only [List.length_append, List.length_singleton, List.getElem_concat_length] at hnode hlong
  rw [weightedDepth_perm _ (insertActive_perm _ _), mergeLoop, depthsFrom_inner hnode,
    weightedDepth_children _ (by simp; omega) (by simp; omega) hin.nodup]
  simp only [weightedDepth, List.map_cons, List.sum_cons]
  ring

/-- The cost of a tree as flat as possible over `n` nodes in order, at most 2^(k+1): the `2 n - 2^(k+1)` lightest lie at
depth `k + 1`, the others at depth `k`. -/
def flatCost (k : Nat) (l : List Active) : Nat := k * weightSum l + weightSum (l.take (2 * l.length - 2 ^ (k + 1)))

theorem flatCost_le (k : Nat) (l : List Active) : flatCost k l ≤ (k + 1) * weightSum l := by
  have htake := weightSum_take_le l (2 * l.length - 2 ^ (k + 1))
  rw [flatCost, Nat.add_mul, Nat.one_mul]
  omega

theorem flatCost_le_succ (k : Nat) (l : List Active) : flatCost k l ≤ flatCost (k + 1) l :=
  (flatCost_le k l).trans (Nat.le_add_right _ _)

/-- While some nodes must lie at depth `k + 1`, merging the two lightest is as cheap as a flat tree: of the nodes that are
then the lightest, none is heavier than what it stands for. -/
theorem Ascending.flatCost_merge {a b : Active} {rest : List Active} (h : Ascending (a :: b :: rest)) (size : Nat)
    {k : Nat} (hk : (a :: b :: rest).length ≤ 2 ^ (k + 1)) (hfull : 2 ^ k < (a :: b :: rest).length) :
    a.1 + b.1 + flatCost k (Machine.insertActive (a.1 + b.1, size) rest) ≤ flatCost k (a :: b :: rest) := by
  rw [List.length_cons, List.length_cons] at hk hfull
  have hrest : Ascending rest := (List.pairwise_cons.mp (List.pairwise_cons.mp h).2).2
  have hpow : 2 ^ (k + 1) = 2 * 2 ^ k := Nat.pow_succ'
  obtain ⟨j, hj⟩ : ∃ j, 2 * (rest.length + 1) - 2 ^ (k + 1) = j := ⟨_, rfl⟩
  have hlight := hrest.weightSum_take_insertActive_le (a.1 + b.1, size) (j := j) (by omega)
  have hdeep : 2 * (rest.length + 1 + 1) - 2 ^ (k + 1) = j + 1 + 1 := by omega
  simp only [flatCost, (insertActive_perm _ rest).length_eq, weightSum_insertActive, List.length_cons, hj, hdeep,
    List.take_succ_cons, weightSum_cons, ← Nat.add_assoc]
  omega

/-- The merge loop spends no more than a flat tree (R177, R187). -/
theorem mergeLoop_weightedDepth_le {fuel k : Nat} {active : List Active} {nodes : List HuffNode}
    (hin : ActiveIn active nodes.length) (hasc : Ascending active) (hlen : active.length = fuel + 1)
    (hk : active.length ≤ 2 ^ (k + 1)) :
    weightedDepth (depthsFrom (mergeLoop fuel active nodes) nodes.length) active ≤ flatCost k active := by
  induction fuel generalizing k active nodes with
  | zero =>
    obtain ⟨a, rfl⟩ := List.length_eq_one_iff.mp hlen
    simp [mergeLoop, weightedDepth]
  | succ fuel ih =>
    match active with
    | [] => simp at hlen
    | [_] => simp at hlen
    | a :: b :: rest =>
      have hrest : Ascending rest := (List.pairwise_cons.mp (List.pairwise_cons.mp hasc).2).2
      have hinsert := (insertActive_perm (a.1 + b.1, nodes.length) rest).length_eq
      simp only [List.length_cons] at hlen hinsert
      have hmerge {k : Nat} (hk : (a :: b :: rest).length ≤ 2 ^ (k + 1)) (hfull : 2 ^ k < (a :: b :: rest).length) :
          weightedDepth (depthsFrom (mergeLoop (fuel + 1) (a :: b :: rest) nodes) nodes.length) (a :: b :: rest) ≤
            flatCost k (a :: b :: rest) := by
        have hrec := ih (k := k) (nodes := nodes ++ [.inner (a.1 + b.1) a.2 b.2])
          (by simpa using hin.merge (a.1 + b.1)) (hrest.insertActive _) (by omega)
          (by simp only [List.length_cons] at hk; omega)
        rw [List.length_append, List.length_singleton] at hrec
        rw [mergeLoop_weightedDepth_succ fuel hin]
        exact (Nat.add_le_add_left hrec _).trans (hasc.flatCost_merge nodes.length hk hfull)
      induction k with
      | zero => exact hmerge hk (by simp)
      | succ k ihk =>
        rcases Nat.lt_or_ge (2 ^ (k + 1)) (a :: b :: rest).length with hfull | hhalf
        · exact hmerge hk hfull
        · exact (ihk hhalf).trans (flatCost_le_succ k _)

/-! ## The number of code bits -/

theorem tableAt_foldl_set_of_notMem {pairs : List (Nat × Nat)} (t : List Nat) {s : Nat} (hs : s ∉ pairs.map Prod.fst) :
    tableAt (pairs.foldl (fun t p => t.set p.1 p.2) t) s = tableAt t s := by
  induction pairs generalizing t with
  | nil => rfl
  | cons q pairs ih =>
    rw [List.map_cons, List.mem_cons, not_or] at hs
    rw [List.foldl_cons, ih _ hs.2, tableAt, tableAt, List.getD_eq_getElem?_getD, List.getD_eq_getElem?_getD,
      List.getElem?_set_ne (Ne.symm hs.1)]

/-- Pairs for different symbols of the table are all in it afterwards. -/
theorem tableAt_foldl_set {pairs : List (Nat × Nat)} (hnodup : (pairs.map Prod.fst).Nodup) {t : List Nat}
    (hlt : ∀ s ∈ pairs.map Prod.fst, s < t.length) {p : Nat × Nat} (hp : p ∈ pairs) :
    tableAt (pairs.foldl (fun t p => t.set p.1 p.2) t) p.1 = p.2 := by
  induction pairs generalizing t with
  | nil => simp at hp
  | cons q pairs ih =>
    obtain ⟨hq, hrest⟩ := List.nodup_cons.mp hnodup
    rw [List.foldl_cons]
    rcases List.mem_cons.mp hp with rfl | hp
    · rw [tableAt_foldl_set_of_notMem _ hq, tableAt_set (hlt _ (by simp)), if_pos rfl]
    · exact ih hrest (fun s hs => by simpa using hlt s (by simp [hs])) hp

theorem tableAt_lenTable {pairs : List (Nat × Nat)} (hnodup : (pairs.map Prod.fst).Nodup)
    (hlt : ∀ s ∈ pairs.map Prod.fst, s < 256) {p : Nat × Nat} (hp : p ∈ pairs) :
    tableAt (lenTable pairs) p.1 = p.2 :=
  tableAt_foldl_set hnodup (by simpa using hlt) hp

theorem huffLengths_of_two_le {freq syms : List Nat} (h : 2 ≤ syms.length) :
    huffLengths freq syms = lenTable (syms.zip (nodeDepths (buildTree freq syms))) := by
  match syms with
  | [] => simp at h
  | [_] => simp at h
  | _ :: _ :: _ => rfl

section
variable {freq syms : List Nat} (hnodup : syms.Nodup) (hlt : ∀ s ∈ syms, s < 256)
include hnodup hlt

/-- The length of a symbol is the depth of its leaf (R179). -/
theorem tableAt_huffLengths (h : 2 ≤ syms.length) {p : Nat × Nat} (hp : p ∈ syms.zipIdx) :
    tableAt (huffLengths freq syms) p.1 = tableAt (nodeDepths (buildTree freq syms)) p.2 := by
  have hlong : syms.length ≤ (nodeDepths (buildTree freq syms)).length := by
    rw [nodeDepths_eq_depthsFrom, depthsFrom_length]
    exact syms_length_le_buildTree freq syms
  have hfst : (syms.zip (nodeDepths (buildTree freq syms))).map Prod.fst = syms := List.map_fst_zip hlong
  have hget := List.mem_zipIdx_iff_getElem?.mp hp
  obtain ⟨hi, hs⟩ := List.getElem?_eq_some_iff.mp hget
  rw [huffLengths_of_two_le h]
  refine tableAt_lenTable (p := (p.1, tableAt (nodeDepths (buildTree freq syms)) p.2)) (by rwa [hfst]) (by rwa [hfst]) ?_
  rw [tableAt_eq_getElem (by omega), ← hs]
  exact List.mem_iff_getElem.mpr ⟨p.2, by simp; omega, by simp⟩

/-- T is the weighted depth of the leaves (R181). -/
theorem totalBits_eq_weightedDepth (h : 2 ≤ syms.length) :
    totalBits freq (huffLengths freq syms) syms =
      weightedDepth (nodeDepths (buildTree freq syms)) (initialActive (leafNodes freq syms)) := by
  have hbits := List.map_congr_left fun p hp =>
    congrArg (tableAt freq p.1 * ·) (tableAt_huffLengths (freq := freq) hnodup hlt h hp)
  have hindexed (f : Nat → Nat) : syms.map f = syms.zipIdx.map fun p => f p.1 := by
    conv_lhs => rw [← List.zipIdx_map_fst 0 syms, List.map_map]
    rfl
  rw [totalBits, hindexed, hbits, weightedDepth_perm _ (initialActive_perm _), weightedDepth, leafNodes,
    List.zipIdx_map, List.map_map, List.map_map]
  rfl

/-- At most 256 nodes fit a flat tree of depth 8 (R187). -/
theorem totalBits_le_of_two_le (h : 2 ≤ syms.length) (h256 : syms.length ≤ 256) :
    totalBits freq (huffLengths freq syms) syms ≤ 8 * (syms.map (tableAt freq)).sum := by
  have hlength := (initialActive_perm (leafNodes freq syms)).length_eq
  rw [List.length_map, List.length_zipIdx, leafNodes_length] at hlength
  have hbound := mergeLoop_weightedDepth_le (k := 7) (initialActive_in (leafNodes freq syms))
    (initialActive_ascending _) (fuel := syms.length - 1) (by omega) (by omega)
  have hweights : weightSum (initialActive (leafNodes freq syms)) = (syms.map (tableAt freq)).sum := by
    rw [weightSum, (initialActive_weights _).sum_eq, leafNodes, List.map_map]
    rfl
  rw [leafNodes_length] at hbound
  rw [totalBits_eq_weightedDepth hnodup hlt h, nodeDepths_eq_of_leaves fun i hi => buildTree_leaf freq syms hi,
    ← hweights]
  exact hbound.trans (flatCost_le 7 _)

/-- T is at most 8 bits for each occurrence of a symbol (R187); with one symbol it is one bit (R174). -/
theorem totalBits_le (h256 : syms.length ≤ 256) :
    totalBits freq (huffLengths freq syms) syms ≤ 8 * (syms.map (tableAt freq)).sum := by
  match syms with
  | [] => exact Nat.zero_le _
  | [s] =>
    have hone : tableAt (huffLengths freq [s]) s = 1 :=
      tableAt_lenTable (pairs := [(s, 1)]) hnodup hlt (List.mem_singleton_self (s, 1))
    simp only [totalBits, List.map_cons, List.map_nil, List.sum_cons, List.sum_nil, hone]
    omega
  | s :: t :: rest => exact totalBits_le_of_two_le hnodup hlt (by simp) h256

end

/-! ## The length of a container -/

theorem inputSyms_nodup (inp : List Byte) : (inputSyms inp).Nodup := List.nodup_range.filter _

/-- The present symbols are the bytes that occur (R172). -/
theorem mem_inputSyms {inp : List Byte} {s : Nat} : s ∈ inputSyms inp ↔ s ∈ inp.map BitVec.toNat := by
  rw [inputSyms, presentSyms, List.mem_filter, List.mem_range, decide_eq_true_eq, List.mem_map]
  constructor
  · rintro ⟨hs, hpos⟩
    rw [tableAt_freqOf inp hs, List.countP_pos_iff] at hpos
    simpa using hpos
  · rintro ⟨b, hb, rfl⟩
    refine ⟨b.isLt, ?_⟩
    rw [tableAt_freqOf inp b.isLt, List.countP_pos_iff]
    exact ⟨b, hb, by simp⟩

/-- The bit string has T bits (R181, R182). -/
theorem streamBits_length (len code : List Nat) (inp : List Byte) :
    (streamBits len code inp).length = totalBits (freqOf inp) len (inputSyms inp) := by
  have hsyms : (inputSyms inp).toFinset = (inp.map BitVec.toNat).toFinset := by
    ext s
    simp only [List.mem_toFinset, mem_inputSyms]
  have hcount : ∀ s ∈ inputSyms inp, tableAt (freqOf inp) s * tableAt len s =
      (inp.map BitVec.toNat).count s • tableAt len s := by
    intro s hs
    rw [tableAt_freqOf inp (inputSyms_lt hs), List.count, List.countP_map, smul_eq_mul]
    rfl
  calc (streamBits len code inp).length
      = ((inp.map BitVec.toNat).map (tableAt len)).sum := by
        simp [streamBits, List.length_flatMap, Function.comp_def]
    _ = ((inputSyms inp).map fun s => (inp.map BitVec.toNat).count s • tableAt len s).sum := by
        rw [Finset.sum_list_map_count, ← hsyms, List.sum_toFinset _ (inputSyms_nodup inp)]
    _ = totalBits (freqOf inp) len (inputSyms inp) := by
        rw [totalBits, List.map_congr_left hcount]

theorem totalBits_input_le (inp : List Byte) :
    totalBits (freqOf inp) (inputLengths inp) (inputSyms inp) ≤ 8 * inp.length := by
  have h := totalBits_le (freq := freqOf inp) (inputSyms_nodup inp) (fun _ => inputSyms_lt) (inputSyms_length_le inp)
  rwa [inputSyms_freq_sum] at h

/-- The packer fills whole bytes; the last one may be padded (R182). -/
theorem packBits_length (bits : List Bool) (acc : Nat) {nacc : Nat} (h : nacc < 8) :
    (packBits bits acc nacc).length = (nacc + bits.length + 7) / 8 := by
  induction bits generalizing acc nacc with
  | nil =>
    rw [packBits]
    split <;> simp only [List.length_singleton, List.length_nil] <;> omega
  | cons b rest ih =>
    rw [packBits, List.length_cons]
    split
    · rw [List.length_cons, ih 0 (by decide)]
      omega
    · rw [ih _ (by omega)]
      omega

theorem symTab_length (len syms : List Nat) : (symTab len syms).length = 2 * syms.length := by
  rw [symTab, List.length_flatMap]
  simp [Nat.mul_comm]

theorem containerHeader_length (n : Nat) (freq len syms : List Nat) :
    (containerHeader n freq len syms).length = 10 + 2 * syms.length := by
  rw [containerHeader, List.length_append, symTab_length]
  rfl

/-- The packed body is no longer than the input (R187). -/
theorem packedBody_length_le (inp : List Byte) :
    (packBits (streamBits (inputLengths inp) (inputCodes inp) inp) 0 0).length ≤ inp.length := by
  have hbits := totalBits_input_le inp
  rw [packBits_length _ _ (by decide), streamBits_length]
  omega

/-- The output bound of the encoder (R187). -/
theorem huffEncode_length_le (inp : List Byte) : (huffEncode inp).length ≤ 522 + inp.length := by
  unfold huffEncode
  split
  · simp [tag, be32]
  · have hsyms := inputSyms_length_le inp
    have hbody := packedBody_length_le inp
    rw [writeContainer, List.length_append, containerHeader_length]
    omega

/-! ## The length of a decoded output -/

theorem Walk.outcome_ok {w : Walk} {out : List Byte} (h : w.outcome = .ok out) : out = w.emitted := by
  unfold Walk.outcome at h
  split at h
  · cases h
    rfl
  · cases h

/-- The output bound of the decoder: every byte of it takes a bit of the input (R238). -/
theorem huffDecode_length_le {x out : List Byte} (h : huffDecode x = .ok out) : out.length ≤ 8 * x.length := by
  unfold huffDecode at h
  split at h
  · cases h
  · cases h
    exact Nat.zero_le _
  · next n len bits hparse =>
    rw [Walk.outcome_ok h]
    exact (unpack_emitted_length_le _ bits 0 n).trans (parse_stream hparse).2

/-! ## The output stays in OBUF -/

/-- A completion of a legal input publishes bytes that fit OBUF (R8, R187, R238). -/
theorem State.Inv.complete_publish {s : State} (h : s.Inv) :
    ∃ r out g, out.length ≤ s.params.obufSize ∧ s.complete = s.publish r out g := by
  obtain ⟨-, -, -, -, -, hdec, henc⟩ := (Params.legal_iff _).mp h.params
  have hinput : s.input.length ≤ s.params.ibufSize := s.input_length ▸ h.inLen
  unfold State.complete State.completeEncode State.completeDecode
  split
  · have hout := huffEncode_length_le s.input
    exact ⟨_, _, _, by omega, rfl⟩
  · split
    · next out hok =>
      have hout := huffDecode_length_le hok
      exact ⟨_, _, _, by omega, rfl⟩
    · exact ⟨_, _, _, Nat.zero_le _, rfl⟩

/-- Bytes that fit a legal OBUF are all there after the completion, and OUT_LEN counts them (R34, R73). -/
theorem State.publish_outputInside {s : State} (hp : s.params.legal = true) (r : Result) {out : List Byte} (g : Engine)
    (hout : out.length ≤ s.params.obufSize) : (s.publish r out g).OutputInside := by
  obtain ⟨-, -, -, -, hsize, -⟩ := (Params.legal_iff _).mp hp
  have hlen : (s.publish r out g).outLen.toNat = out.length := by
    rw [State.publish_outLen, BitVec.toNat_ofNat]
    omega
  refine ⟨hlen.le.trans hout, fun c hc => ?_, fun j hj => ?_⟩
  · have hlt := (Memory.mem_ofBytes out 0 c hc).2
    rw [Nat.zero_add] at hlt
    exact hlt.trans_le hout
  · rw [hlen] at hj
    simp [hj]

/-- An update that keeps the sizes and OBUF, and keeps or clears OUT_LEN, keeps the output in OBUF. -/
theorem State.OutputInside.frame {s t : State} (h : s.OutputInside) (hp : t.params = s.params) (ho : t.obuf = s.obuf)
    (hlen : t.outLen = s.outLen ∨ t.outLen = 0) : t.OutputInside := by
  have hle : t.outLen.toNat ≤ s.outLen.toNat := by
    rcases hlen with hlen | hlen <;> simp [hlen]
  exact ⟨hp ▸ hle.trans h.outLen, by rw [hp, ho]; exact h.stored, fun j hj => ho ▸ h.defined j (hj.trans_le hle)⟩

theorem State.OutputInside.engineTurn {s : State} (h : s.OutputInside) (hinv : s.Inv) : s.engineTurn.OutputInside := by
  rcases s.engineTurn_cases with ⟨-, heq⟩ | ⟨-, -, heq⟩ <;> rw [heq]
  · exact h
  · obtain ⟨r, out, g, hout, heq'⟩ := hinv.complete_publish
    rw [heq']
    exact State.publish_outputInside hinv.params r g hout

theorem State.OutputInside.driveReset {s : State} (h : s.OutputInside) (level : Bool) :
    (s.driveReset level).OutputInside := by
  unfold State.driveReset
  split_ifs
  · exact h
  · exact State.afterReset_outputInside _ _ _
  · exact h.frame rfl rfl (.inl rfl)

/-- The host writes no byte of OBUF, and only clears OUT_LEN (R31, R150). -/
theorem State.OutputInside.transact {s t : State} (h : s.OutputInside) {x : Transaction}
    (ht : s.transact x = .next t) : t.OutputInside := by
  rcases s.transact_cases x with ⟨a, heq⟩ | ⟨b, heq⟩ | ⟨w, heq⟩ | ⟨w, -, -, heq⟩ | ⟨i, w, -, -, heq⟩ |
      ⟨-, heq | heq | heq⟩ <;> cases heq.symm.trans ht
  · exact h.frame rfl rfl (.inl rfl)
  · exact h.frame rfl rfl (.inl rfl)
  · exact h.frame rfl rfl (.inl rfl)
  · exact h.frame rfl rfl (.inl rfl)
  · exact h.frame rfl rfl (.inl rfl)
  · exact h.frame rfl rfl (.inr rfl)
  · exact h.frame rfl rfl (.inr rfl)
  · exact h.frame rfl rfl (.inr rfl)

/-- Settles O24, by the kinds of step: a completion's output fits by the bounds of the encoder and of the decoder, and no
other step writes OBUF. -/
theorem stepKeepsOutputInside : Obligations.StepKeepsOutputInside := by
  intro s t hinv h hstep
  have hrest (rest : List Event) : (s.setEnv rest).OutputInside := h.frame rfl rfl (.inl rfl)
  rcases step_cases s t hstep with ⟨-, rfl⟩ | ⟨rest, -, rfl⟩ | ⟨level, rest, -, rfl⟩ | ⟨x, rest, -, -, hx⟩
  · exact h.engineTurn hinv
  · exact (hrest rest).engineTurn (hinv.setEnv rest)
  · exact (hrest rest).driveReset level
  · exact (hrest rest).transact hx

end Sys2Proof.Machine

/-! PROOF. The statements of 30_encoding.md: a command word is the encoding of its command, the STATUS word follows its three
fields, the bits of a byte sequence and of a code stand in the order of R105, and the codes of a legal length set are
consecutive, below the leading bits of longer codes, and none begins with another. -/

namespace Sys2Proof.Machine

/-! ## Canonical codes of a legal length set -/

/-- A legal length set passes the checks of the decoder (R103, R227 to R229). -/
theorem AcceptedLengths.of_legalLengths {len : List Nat} (h : legalLengths len = true) : AcceptedLengths len := by
  simp only [legalLengths, Bool.and_eq_true, decide_eq_true_eq, List.all_eq_true] at h
  obtain ⟨⟨⟨hlength, -⟩, hle⟩, hcomplete⟩ := h
  exact ⟨hlength, hle, completeLengths_cases hcomplete⟩

section
variable {len : List Nat} (hlen : FitsKraft len)
include hlen

/-- The only code of a code whose one length is 1 is 0: length 1 starts at 0, and no symbol comes before (R107). -/
theorem FitsKraft.canonCodes_of_single (hone : presentLengths len = [1]) {s : Nat} (hs : 0 < tableAt len s) :
    tableAt (canonCodes len) s = 0 := by
  have hpresent : tableAt len s ∈ presentLengths len := by
    rw [← List.count_pos_iff]
    exact (Nat.zero_le _).trans_lt (count_take_lt hs)
  have hlength : tableAt len s = 1 := by simpa [hone] using hpresent
  have hearlier := count_take_lt hs
  have hfirst : firstCode len 1 = 0 := by simp [firstCode_succ len (l := 0), firstCode_zero, hone]
  rw [hlength, hone, List.count_singleton_self] at hearlier
  rw [hlen.canonCodes_eq hs, hlength, hfirst]
  omega

/-- The next symbol of the same length has the next code (R107). -/
theorem FitsKraft.canonCodes_next {s t : Nat} (hs : 0 < tableAt len s) (hst : s < t)
    (heq : tableAt len s = tableAt len t) (hbetween : ∀ u, s < u → u < t → tableAt len u ≠ tableAt len s) :
    tableAt (canonCodes len) t = tableAt (canonCodes len) s + 1 := by
  have ht := lt_length_of_tableAt_pos (heq ▸ hs : 0 < tableAt len t)
  have hsplit : len.take t = len.take s ++ len[s] :: (len.take t).drop (s + 1) := by
    conv_lhs => rw [← List.take_append_drop s (len.take t), List.take_take, Nat.min_eq_left hst.le,
      List.drop_eq_getElem_cons (by simp; omega), List.getElem_take]
  have hnone : ((len.take t).drop (s + 1)).count (tableAt len s) = 0 := by
    rw [List.count_eq_zero]
    intro hmem
    obtain ⟨i, hi, hget⟩ := List.mem_iff_getElem.mp hmem
    simp only [List.length_drop, List.length_take] at hi
    refine hbetween (s + 1 + i) (by omega) (by omega) ?_
    rw [tableAt_eq_getElem (by omega), ← hget, List.getElem_drop, List.getElem_take]
  rw [hlen.canonCodes_eq hs, hlen.canonCodes_eq (heq ▸ hs), ← heq, hsplit, List.count_append,
    ← tableAt_eq_getElem (by omega), List.count_cons_self, hnone]
  rfl

/-- A code is below the leading bits of every longer code (R107). -/
theorem FitsKraft.canonCodes_lt_div {s t : Nat} (hs : 0 < tableAt len s) (hlt : tableAt len s < tableAt len t) :
    tableAt (canonCodes len) s < tableAt (canonCodes len) t / 2 ^ (tableAt len t - tableAt len s) := by
  obtain ⟨k, hk⟩ := Nat.exists_eq_add_of_lt hlt
  have hearlier := count_take_lt hs
  have hfirst := firstCode_add_count_mul_le len (l := tableAt len s) (k := k) (by have := hlen.tableAt_le t; omega)
  have hbeyond : firstCode len (tableAt len s) + (presentLengths len).count (tableAt len s) ≤
      tableAt (canonCodes len) t / 2 ^ (tableAt len t - tableAt len s) := by
    rw [Nat.le_div_iff_mul_le (by positivity), show tableAt len t - tableAt len s = k + 1 by omega,
      hlen.canonCodes_eq (hs.trans hlt), hk]
    omega
  rw [hlen.canonCodes_eq hs]
  omega

end

/-- Settles O47: a legal length set has Kraft sum at most 1, so its codes fit their lengths and none begins with
another. -/
theorem canonicalCodesPrefixFree : Obligations.CanonicalCodesPrefixFree := by
  intro len hlegal
  have hlen := (AcceptedLengths.of_legalLengths hlegal).fitsKraft
  exact ⟨fun _ => hlen.canonCodes_lt, fun _ _ => hlen.codeBits_not_prefix, fun hone _ => hlen.canonCodes_of_single hone⟩

/-- Settles O48: the code of a symbol counts the earlier symbols of its length, from a first code beyond all shorter
codes. -/
theorem canonicalCodesConsecutive : Obligations.CanonicalCodesConsecutive := by
  intro len hlegal s t hs _
  have hlen := (AcceptedLengths.of_legalLengths hlegal).fitsKraft
  exact ⟨hlen.canonCodes_next hs, hlen.canonCodes_lt_div hs⟩

/-! ## The STATUS word -/

/-- The formula of R95. -/
theorem Status.word_eq (t : Status) :
    t.word = (t.result.code.setWidth 32 <<< 4) ||| ((BitVec.ofBool t.done).setWidth 32 <<< 1) |||
      (BitVec.ofBool t.busy).setWidth 32 := by
  obtain ⟨busy, done, result⟩ := t
  cases busy <;> cases done <;> cases result <;> rfl

/-- While no command runs, RESULT and DONE alone make the word. -/
theorem Status.word_of_idle {t : Status} {r : Result} (hb : t.busy = false) (hr : t.result = r) :
    t.word = if t.done then Status.word ⟨false, true, r⟩ else Status.word ⟨false, false, r⟩ := by
  obtain ⟨busy, done, result⟩ := t
  subst hb hr
  cases done <;> rfl

/-- While a command runs there is no outcome yet (R142, R143). -/
theorem State.Inv.status_of_busy {s : State} (h : s.Inv) (hb : s.status.busy = true) : s.status = Status.accepted := by
  have hresult := h.pending hb
  have hdone := h.fresh hresult
  calc s.status = ⟨s.status.busy, s.status.done, s.status.result⟩ := rfl
    _ = Status.accepted := by rw [hb, hdone, hresult]; rfl

/-- Settles O27: the invariant leaves no outcome while BUSY and no DONE without a RESULT. -/
theorem statusWordValues : Obligations.StatusWordValues := by
  refine ⟨Status.word_eq, fun p draw env => ?_, fun s hinv => ⟨fun hb => ?_, fun hb hr => ?_, ?_, ?_, ?_, ?_⟩⟩
  · rw [State.afterReset_status]
    rfl
  · rw [hinv.status_of_busy hb]
    rfl
  · rw [Status.word_of_idle hb hr, hinv.fresh hr]
    rfl
  all_goals exact Status.word_of_idle

/-! ## The order of bits -/

/-- Bit `k` of an L-bit string is bit L - 1 - k of the number it writes (R13, R106). -/
theorem bitsMsb_getElem? {l k : Nat} (c : Nat) (h : k < l) : (bitsMsb l c)[k]? = some (c.testBit (l - 1 - k)) := by
  induction l generalizing k with
  | zero => simp at h
  | succ l ih =>
    cases k with
    | zero => rfl
    | succ k =>
      rw [bitsMsb, List.getElem?_cons_succ, ih (by omega)]
      congr 2
      omega

theorem bytesBits_cons (b : Byte) (y : List Byte) : bytesBits (b :: y) = bitsMsb 8 b.toNat ++ bytesBits y := rfl

/-- Bit 0 of a byte sequence is the first byte's bit 7; after its 8 bits come those of the next byte (R105). -/
theorem bytesBits_getElem? {y : List Byte} {p : Nat} (h : p < 8 * y.length) : (bytesBits y)[p]? = some (bitAt y p) := by
  induction y generalizing p with
  | nil => simp at h
  | cons b y ih =>
    rw [List.length_cons] at h
    rw [bytesBits_cons]
    rcases Nat.lt_or_ge p 8 with hp | hp
    · rw [List.getElem?_append_left (by simpa using hp), bitsMsb_getElem? _ hp, bitAt, Nat.div_eq_of_lt hp,
        Nat.mod_eq_of_lt hp]
      rfl
    · obtain ⟨q, rfl⟩ := Nat.exists_eq_add_of_le hp
      rw [List.getElem?_append_right (by simp), bitsMsb_length, Nat.add_sub_cancel_left, ih (by omega), bitAt, bitAt,
        Nat.add_mod_left, Nat.add_div_left _ (by decide), List.getD_cons_succ]

/-- Settles O49: byte by byte for a sequence, bit by bit for a code. -/
theorem bitOrder : Obligations.BitOrder := by
  refine ⟨fun y p hp => ⟨bytesBits_getElem? hp, y[p / 8], List.getElem?_eq_getElem (by omega), ?_⟩,
    fun len code s k hk => ⟨codeBits_length len code s, bitsMsb_getElem? _ hk⟩⟩
  rw [bitAt, List.getD_eq_getElem _ _ (by omega), BitVec.testBit_toNat]

/-! ## The command word -/

/-- A word decodes to a command exactly when it is the command's word (R91). -/
theorem decode_eq_ok_iff {w : Word} {i : Instr} : decode w = .ok i ↔ w = encode i := by
  constructor
  · intro h
    unfold decode at h
    split_ifs at h with h0 h1 h2 <;> cases h <;> assumption
  · rintro rfl
    cases i <;> rfl

/-- The word of every command has RSVD 0 and the command's OP (R90, R91). -/
theorem encodedFields (i : Instr) : Laws.EncodedFields.Statement i := by
  cases i with
  | nop => exact Laws.EncodedFields.nop
  | compress => exact Laws.EncodedFields.compress
  | decompress => exact Laws.EncodedFields.decompress

/-- A word is its two fields (R90). -/
theorem cmdFields_append (w : Word) : (cmdFields w).rsvd ++ (cmdFields w).op = w := by
  have h := BitVec.extractLsb'_append_extractLsb'_eq_extractLsb' (x := w) (start₁ := 0) (len₁ := 4) (start₂ := 4)
    (len₂ := 28) rfl
  simpa [cmdFields] using h

/-- An OP of at most 2 is the OP of a command (R91). -/
theorem exists_opOf_eq {op : BitVec 4} (h : op.toNat ≤ 2) : ∃ i, op = opOf i := by
  have hcase : op.toNat = 0 ∨ op.toNat = 1 ∨ op.toNat = 2 := by omega
  rcases hcase with h | h | h
  · exact ⟨.nop, BitVec.eq_of_toNat_eq h⟩
  · exact ⟨.compress, BitVec.eq_of_toNat_eq h⟩
  · exact ⟨.decompress, BitVec.eq_of_toNat_eq h⟩

theorem CmdFields.legal_iff {f : CmdFields} : f.legal = true ↔ f.rsvd = 0 ∧ f.op.toNat ≤ 2 := by
  simp [CmdFields.legal]

/-- The fields are legal exactly in the words of the commands (R91, R92). -/
theorem cmdFields_legal_iff {w : Word} : (cmdFields w).legal = true ↔ ∃ i, w = encode i := by
  rw [CmdFields.legal_iff]
  constructor
  · rintro ⟨hrsvd, hop⟩
    obtain ⟨i, hi⟩ := exists_opOf_eq hop
    exact ⟨i, by rw [← cmdFields_append w, hrsvd, hi]; rfl⟩
  · rintro ⟨i, rfl⟩
    obtain ⟨hrsvd, hop, -⟩ := encodedFields i
    exact ⟨hrsvd, by rw [hop]; cases i <;> decide⟩

/-- A word is illegal exactly when it is the word of no command. -/
theorem decode_error_iff {w : Word} : (∃ e, decode w = .error e) ↔ ¬ ∃ i, w = encode i := by
  simp only [← decode_eq_ok_iff]
  cases decode w <;> simp

/-- An idle block takes an illegal word as the illegal command (R144). -/
theorem writeCmd_of_error {s : State} {w : Word} {e : DecodeError} (hb : s.status.busy = false)
    (he : decode w = .error e) : writeCmd w s = .next (s.takeIllegal.respond (.write .okay)) := by
  simp [writeCmd, he, execIllegal, s.onCommand_idle _ hb]

/-- Settles O1: each command has one word. -/
theorem commandWordsDecode : Obligations.CommandWordsDecode :=
  ⟨fun _ => ⟨decode_eq_ok_iff, decode_eq_ok_iff, decode_eq_ok_iff⟩, rfl, rfl, rfl⟩

/-- Settles O2: a word is illegal when its fields are, and an idle block takes it as the illegal command. -/
theorem illegalWordsRejected : Obligations.IllegalWordsRejected := by
  intro w
  refine ⟨?_, fun s hb ⟨e, he⟩ => ?_⟩
  · rw [decode_error_iff, ← cmdFields_legal_iff, CmdFields.legal_iff, not_and_or, or_comm, Nat.not_le]
    rfl
  · exact ⟨_, writeCmd_of_error hb he, rfl, rfl, hb⟩

/-- Settles O3: `decode` answers a command exactly on its own word, whose fields are legal. -/
theorem commandEncodeDecode : Obligations.CommandEncodeDecode :=
  ⟨fun i _ => ⟨decode_eq_ok_iff.mpr rfl, cmdFields_legal_iff.mpr ⟨i, rfl⟩⟩, fun _ _ h => (decode_eq_ok_iff.mp h).symm⟩

end Sys2Proof.Machine

/-! PROOF. The statements of 40_commands.md: a write to CMD is its word's command, each register and window access does what
its rule says, the rejected transactions are those of R154, and a command ends with the outcome of its input at acceptance,
whatever the host does meanwhile. For the last, host transactions while BUSY change only IRQ_EN, DONE and the answer, so the
completion meets the input, the phase and the buffers that the acceptance left. -/

namespace Sys2Proof.Machine

/-! ## The commands -/

/-- A host write to CMD is the next step's command (R140). -/
theorem step_cmd {s : State} {w : Word} {rest : List Event} (henv : s.env = .host (.write 0x00000010#32 w) :: rest)
    (hr : s.rstN = true) : step s = writeCmd w (s.setEnv rest) :=
  (step_host s _ rest henv hr).trans ((s.setEnv rest).transact_write_reg .cmd w)

theorem writeCmd_of_ok {w : Word} {i : Instr} (hd : decode w = .ok i) (s : State) : writeCmd w s = exec i s := by
  simp [writeCmd, hd]

theorem decode_of_decodeTableWord {nbits w : Nat} {i : Instr} (h : decodeTableWord nbits w = some i) :
    decode (cmdWordOf nbits w) = .ok i := by
  unfold decodeTableWord at h
  split at h
  · next hd =>
    cases h
    exact hd
  · cases h

/-- Settles O4: the step is the write to CMD, which is the decoded command. -/
theorem stepRunsDecodedCommand : Obligations.StepRunsDecodedCommand := by
  intro s w i rest henv hr hd
  rw [step_cmd henv hr, writeCmd_of_ok hd]

/-- Settles O5: `withFetchWord` puts a CMD write in front of the waiting events. -/
theorem fetchWordIsTheNextCommand : Obligations.FetchWordIsTheNextCommand := by
  intro s nbits w i h
  have henv : (s.withFetchWord nbits w).env = .host (.write 0x00000010#32 (cmdWordOf nbits w)) :: s.env := rfl
  rw [step_cmd henv rfl, writeCmd_of_ok (decode_of_decodeTableWord h)]
  rfl

/-- What a command does to an idle block, the answer apart (R141 to R143). -/
def commandEffect (i : Instr) (s : State) : State :=
  match i with
  | .nop => s
  | .compress => s.accept .encCount
  | .decompress => s.accept .decParse

theorem exec_idle {s : State} (hb : s.status.busy = false) (i : Instr) :
    exec i s = .next ((commandEffect i s).respond (.write .okay)) := by
  cases i with
  | nop | compress | decompress => exact congrArg _ (s.onCommand_idle _ hb)

theorem exec_busy {s : State} (hb : s.status.busy = true) (i : Instr) :
    exec i s = .next (s.respond (.write .slverr)) := by
  cases i with
  | nop | compress | decompress => exact congrArg _ (s.onCommand_busy _ hb)

/-- Settles O6: NOP has no effect but the answer, and while BUSY no command has. -/
theorem nopCompletes : Obligations.NopCompletes :=
  fun _ => ⟨fun hb => exec_idle hb .nop, fun hb => exec_busy hb .nop⟩

/-- Settles O7: the effect of COMPRESS is its acceptance in ENC_COUNT. -/
theorem compressIsAccepted : Obligations.CompressIsAccepted := fun _ hb => exec_idle hb .compress

/-- Settles O8: the effect of DECOMPRESS is its acceptance in DEC_PARSE. -/
theorem decompressIsAccepted : Obligations.DecompressIsAccepted := fun _ hb => exec_idle hb .decompress

/-- Settles O9: a rejected command and NOP change the answer alone, and an acceptance three fields besides. -/
theorem commandFrame : Obligations.CommandFrame := by
  intro i s t ht
  cases hb : s.status.busy with
  | true =>
    cases (exec_busy hb i).symm.trans ht
    simp
  | false =>
    cases (exec_idle hb i).symm.trans ht
    cases i with
    | nop => simp [commandEffect]
    | compress | decompress =>
      simp only [commandEffect]
      exact ⟨rfl, rfl, rfl, rfl, rfl, rfl, rfl, rfl, rfl, rfl, fun _ => rfl, by simp, fun _ => ⟨rfl, rfl⟩⟩

/-- Settles O10: the word decodes to no command, and an idle block takes it as the illegal one. -/
theorem illegalCommandIsTaken : Obligations.IllegalCommandIsTaken := by
  intro s w rest henv hr hb h0 h1 h2
  obtain ⟨e, he⟩ : ∃ e, decode w = .error e := by
    rw [decode_error_iff]
    rintro ⟨i, rfl⟩
    cases i with
    | nop => exact h0 rfl
    | compress => exact h1 rfl
    | decompress => exact h2 rfl
  have hstatus : s.status.illegal = { busy := false, done := true, result := .illegalCommand } := by
    rw [Status.illegal, hb]
  rw [step_cmd henv hr, writeCmd_of_error (s := s.setEnv rest) hb he, ← hstatus]
  rfl

/-! ## The completion -/

/-- The completion does not read the answer on the bus, and leaves it there (R146). -/
theorem State.complete_respond (s : State) (a : BusAnswer) : (s.respond a).complete = s.complete.respond a := by
  unfold State.complete State.completeEncode State.completeDecode
  rw [State.respond_engine, State.respond_input]
  split
  · rfl
  · split <;> rfl

/-- Settles O11: a busy block rejects the write, and its completion does not read the answer. -/
theorem cmdWriteWhileBusy : Obligations.CmdWriteWhileBusy := by
  intro s w rest henv hr hb
  refine ⟨?_, (s.setEnv rest).complete_respond _⟩
  rw [step_cmd henv hr, writeCmd_busy (s := s.setEnv rest) hb]
  rfl

/-- RESULT and the bytes a DECOMPRESS of `x` ends with (R143). -/
def DecodeEnds (x : List Byte) (r : Result) (out : List Byte) : Prop :=
  (huffDecode x = .ok out ∧ r = .ok) ∨
  (out = [] ∧ ∃ c, huffDecode x = .error (.containerFormat c) ∧ r = .containerFormatError) ∨
  (out = [] ∧ ∃ c, huffDecode x = .error (.corrupt c) ∧ r = .corruptStream)

theorem State.complete_encoder {s : State} (h : s.engine.phase.isEncoder = true) :
    s.complete = s.publish .ok (huffEncode s.input) (s.engine.runEncode s.input) := by
  rw [State.complete, if_pos h, State.completeEncode]

theorem State.complete_decoder {s : State} (h : s.engine.phase.isEncoder = false) :
    ∃ r out, s.complete = s.publish r out (s.engine.runDecode s.input) ∧ DecodeEnds s.input r out := by
  have hdecode : s.complete = s.completeDecode := by simp [State.complete, h]
  rw [hdecode, State.completeDecode]
  cases hx : huffDecode s.input with
  | ok out => exact ⟨.ok, out, rfl, .inl ⟨hx, rfl⟩⟩
  | error e =>
    cases e with
    | containerFormat c => exact ⟨_, [], rfl, .inr (.inl ⟨rfl, c, hx, rfl⟩)⟩
    | corrupt c => exact ⟨_, [], rfl, .inr (.inr ⟨rfl, c, hx, rfl⟩)⟩

/-- What a completion publishes, for both commands (R146). -/
theorem State.complete_publishes (s : State) :
    ∃ r out g, s.complete = s.publish r out g ∧
      (s.engine.phase.isEncoder = true → out = huffEncode s.input ∧ r = .ok) ∧
      (s.engine.phase.isEncoder = false → DecodeEnds s.input r out) := by
  cases h : s.engine.phase.isEncoder with
  | true => exact ⟨_, _, _, State.complete_encoder h, fun _ => ⟨rfl, rfl⟩, by simp⟩
  | false =>
    obtain ⟨r, out, heq, hends⟩ := State.complete_decoder h
    exact ⟨r, out, _, heq, by simp, fun _ => hends⟩

/-- The engine's turn comes with its event, or with nothing waiting (log entry 2). -/
theorem step_engineTurn {s : State} {rest : List Event} (h : (s.env = [] ∧ rest = []) ∨ s.env = .engine :: rest) :
    step s = .next (s.setEnv rest).engineTurn := by
  rcases h with ⟨henv, rfl⟩ | henv
  · rw [step_nil s henv, ← henv, State.setEnv_env_self]
  · exact step_engine s rest henv

theorem State.engineTurn_idle {s : State} (h : s.rstN = false ∨ s.status.busy = false) : s.engineTurn = s := by
  rcases h with h | h <;> simp [State.engineTurn, h]

theorem State.engineTurn_busy {s : State} (hr : s.rstN = true) (hb : s.status.busy = true) :
    s.engineTurn = s.complete := by
  simp [State.engineTurn, hr, hb]

/-- Settles O12: the engine's turn is the completion exactly when it is enabled, and a completion is a publication. -/
theorem engineStepCompletes : Obligations.EngineStepCompletes := by
  intro s rest henv
  rw [step_engineTurn henv]
  refine ⟨fun hidle => congrArg _ (State.engineTurn_idle hidle), fun ⟨hr, hb⟩ => ?_⟩
  obtain ⟨r, out, g, heq, henc, hdec⟩ := (s.setEnv rest).complete_publishes
  have hturn : (s.setEnv rest).engineTurn = (s.setEnv rest).publish r out g := by
    rw [State.engineTurn_busy (s := s.setEnv rest) hr hb, heq]
  refine ⟨_, out, congrArg _ hturn, henc, hdec, ?_⟩
  simp [Status.completed]

/-! ## Host traffic while a command runs -/

/-- A run of `j` steps and then of `k` steps is a run of `j + k` steps. -/
theorem stepN_add {j k : Nat} {s t : State} (h : stepN j s = .next t) : stepN (j + k) s = stepN k t := by
  induction j generalizing s with
  | zero =>
    cases h
    rw [Nat.zero_add]
  | succ j ih =>
    rw [Nat.add_right_comm]
    simp only [stepN] at h ⊢
    cases hstep : step s with
    | next u =>
      rw [hstep] at h
      exact ih h
    | fault f => simp [hstep] at h
    | refused r => simp [hstep] at h

@[simp] theorem stepN_one (s : State) : stepN 1 s = step s := by
  simp only [stepN]
  cases step s <;> rfl

/-- `t` is `s` but for what the host can change while a command runs: IRQ_EN, DONE, the last answer and the waiting
events. -/
def State.SameRun (s t : State) : Prop :=
  ∃ irqEn done bus env, t = { s with irqEn := irqEn, status := { s.status with done := done }, bus := bus, env := env }

theorem State.SameRun.refl (s : State) : s.SameRun s := ⟨s.irqEn, s.status.done, s.bus, s.env, rfl⟩

theorem State.SameRun.trans {s t u : State} (hst : s.SameRun t) (htu : t.SameRun u) : s.SameRun u := by
  obtain ⟨_, _, _, _, rfl⟩ := hst
  obtain ⟨irqEn, done, bus, env, rfl⟩ := htu
  exact ⟨irqEn, done, bus, env, rfl⟩

theorem State.SameRun.busy {s t : State} (h : s.SameRun t) : t.status.busy = s.status.busy := by
  obtain ⟨_, _, _, _, rfl⟩ := h
  rfl

theorem State.SameRun.rstN {s t : State} (h : s.SameRun t) : t.rstN = s.rstN := by
  obtain ⟨_, _, _, _, rfl⟩ := h
  rfl

theorem State.SameRun.input {s t : State} (h : s.SameRun t) : t.input = s.input := by
  obtain ⟨_, _, _, _, rfl⟩ := h
  rfl

theorem State.SameRun.engine {s t : State} (h : s.SameRun t) : t.engine = s.engine := by
  obtain ⟨_, _, _, _, rfl⟩ := h
  rfl

theorem State.SameRun.inLen {s t : State} (h : s.SameRun t) : t.inLen = s.inLen := by
  obtain ⟨_, _, _, _, rfl⟩ := h
  rfl

theorem State.SameRun.ibuf {s t : State} (h : s.SameRun t) : t.ibuf = s.ibuf := by
  obtain ⟨_, _, _, _, rfl⟩ := h
  rfl

/-- While BUSY the host reaches neither IN_LEN nor the buffers nor the command (R71, R145, R149). -/
theorem State.transact_busy_sameRun {s : State} (hb : s.status.busy = true) (x : Transaction) :
    ∃ t, s.transact x = .next t ∧ s.SameRun t ∧ t.env = s.env := by
  rcases s.transact_cases x with ⟨a, h⟩ | ⟨b, h⟩ | ⟨w, h⟩ | ⟨_, hidle, _⟩ | ⟨_, _, hidle, _⟩ | ⟨hidle, _⟩
  · exact ⟨_, h, ⟨_, _, _, _, rfl⟩, rfl⟩
  · exact ⟨_, h, ⟨_, _, _, _, rfl⟩, rfl⟩
  · refine ⟨_, h, ?_, rfl⟩
    rcases s.status.afterWrite_cases w with hw | hw <;> rw [State.writeStatus, hw]
    · exact ⟨_, false, _, _, rfl⟩
    · exact ⟨_, s.status.done, _, _, rfl⟩
  all_goals exact absurd (hb.symm.trans hidle) (by decide)

/-- Any list of host transactions leaves a running command as it is. -/
theorem stepN_host_busy {s : State} {es rest : List Event} (hes : ∀ e ∈ es, e.isHost = true)
    (henv : s.env = es ++ rest) (hr : s.rstN = true) (hb : s.status.busy = true) :
    ∃ t, stepN es.length s = .next t ∧ s.SameRun t ∧ t.env = rest := by
  induction es generalizing s with
  | nil => exact ⟨s, rfl, .refl s, henv⟩
  | cons e es ih =>
    obtain ⟨he, hrest⟩ := List.forall_mem_cons.mp hes
    cases e with
    | engine | rst => simp [Event.isHost] at he
    | host x =>
      obtain ⟨t, hx, hst, htenv⟩ := State.transact_busy_sameRun (s := s.setEnv (es ++ rest)) hb x
      have hstep : stepN 1 s = .next t := by rw [stepN_one, step_host s x (es ++ rest) henv hr, hx]
      have hst : s.SameRun t := .trans ⟨_, _, _, es ++ rest, rfl⟩ hst
      obtain ⟨u, hu, htu, huenv⟩ := ih hrest htenv (hst.rstN.trans hr) (hst.busy.trans hb)
      exact ⟨u, by rw [List.length_cons, Nat.add_comm, stepN_add hstep, hu], hst.trans htu, huenv⟩

/-- An accepted command, host traffic and the engine's turn: the completion meets the state the acceptance left. -/
theorem stepN_command {s : State} {w : Word} {i : Instr} {p : Phase} (hd : decode w = .ok i)
    (hi : commandEffect i = fun u => u.accept p) (hb : s.status.busy = false) (hr : s.rstN = true) {es : List Event}
    (hes : ∀ e ∈ es, e.isHost = true) (rest : List Event) :
    ∃ u, stepN (es.length + 2) (s.setEnv (.host (.write 0x00000010#32 w) :: (es ++ .engine :: rest))) =
        .next u.complete ∧ (s.accept p).SameRun u ∧ u.env = rest := by
  have haccept : stepN 1 (s.setEnv (.host (.write 0x00000010#32 w) :: (es ++ .engine :: rest))) =
      .next (((s.accept p).setEnv (es ++ .engine :: rest)).respond (.write .okay)) := by
    rw [stepN_one, step_cmd (s := s.setEnv _) rfl hr, writeCmd_of_ok hd, State.setEnv_setEnv,
      exec_idle (s := s.setEnv (es ++ .engine :: rest)) hb, hi]
    rfl
  obtain ⟨t, ht, hst, htenv⟩ := stepN_host_busy hes
    (s := ((s.accept p).setEnv (es ++ .engine :: rest)).respond (.write .okay)) rfl hr rfl
  have hst : (s.accept p).SameRun t := .trans ⟨_, _, _, _, rfl⟩ hst
  refine ⟨t.setEnv rest, ?_, hst.trans ⟨_, _, _, rest, rfl⟩, rfl⟩
  rw [show es.length + 2 = 1 + (es.length + 1) by omega, stepN_add haccept, stepN_add ht, stepN_one,
    step_engine t rest htenv]
  exact congrArg _ (State.engineTurn_busy (hst.rstN.trans hr) hst.busy)

/-- OUT_LEN counts an output that fits its 32 bits (R31). -/
theorem State.publish_outLen_toNat (s : State) (r : Result) {out : List Byte} (g : Engine) (h : out.length < 2 ^ 32) :
    (s.publish r out g).outLen.toNat = out.length := by
  rw [State.publish_outLen, BitVec.toNat_ofNat, Nat.mod_eq_of_lt h]

/-- The host reads the whole of an output that fits the 32 bits of OUT_LEN (R34, R73). -/
theorem State.publish_output_of_lt (s : State) (r : Result) {out : List Byte} (g : Engine) (h : out.length < 2 ^ 32) :
    (s.publish r out g).output = out := by
  rw [State.publish_output, Nat.mod_eq_of_lt h, List.take_length]

/-- Beyond the output OBUF holds no defined byte (R73). -/
theorem State.publish_obuf_beyond (s : State) (r : Result) {out : List Byte} (g : Engine) (h : out.length < 2 ^ 32)
    {j : Nat} (hj : (s.publish r out g).outLen.toNat ≤ j) : (s.publish r out g).obuf.get? j = none := by
  rw [s.publish_outLen_toNat r g h] at hj
  simp [hj]

/-- Settles O13: the completion meets the input at acceptance, whose container fits OUT_LEN. -/
theorem compressUnderAnyHostTraffic : Obligations.CompressUnderAnyHostTraffic := by
  intro s es rest hinv hb hr hes
  obtain ⟨u, hrun, hsame, henv⟩ := stepN_command (w := 0x00000001#32) (i := .compress) rfl rfl hb hr hes rest
  have hinput : u.input = s.input := hsame.input
  have hphase : u.engine.phase.isEncoder = true := by rw [hsame.engine]; rfl
  have hfits : (huffEncode s.input).length < 2 ^ 32 := by
    have hbound := huffEncode_length_le s.input
    have hsize := hinv.input_length_le
    omega
  rw [State.complete_encoder hphase, hinput] at hrun
  exact ⟨_, hrun, rfl, u.publish_outLen_toNat _ _ hfits, u.publish_output_of_lt _ _ hfits,
    fun j => u.publish_obuf_beyond _ _ hfits, hsame.inLen, hsame.ibuf, rfl, henv⟩

/-- The bytes a DECOMPRESS of a legal input ends with fit OUT_LEN (R238). -/
theorem DecodeEnds.length_lt {x out : List Byte} {r : Result} (h : DecodeEnds x r out) (hx : x.length ≤ 2 ^ 27) :
    out.length < 2 ^ 32 := by
  rcases h with ⟨hok, -⟩ | ⟨rfl, -⟩ | ⟨rfl, -⟩
  · have hbound := huffDecode_length_le hok
    omega
  · simp
  · simp

/-- Settles O14: the completion meets the input at acceptance, and Decode of it has one of the three outcomes. -/
theorem decompressUnderAnyHostTraffic : Obligations.DecompressUnderAnyHostTraffic := by
  intro s es rest hinv hb hr hes
  obtain ⟨u, hrun, hsame, henv⟩ := stepN_command (w := 0x00000002#32) (i := .decompress) rfl rfl hb hr hes rest
  have hinput : u.input = s.input := hsame.input
  have hphase : u.engine.phase.isEncoder = false := by rw [hsame.engine]; rfl
  obtain ⟨r, out, heq, hends⟩ := State.complete_decoder hphase
  rw [hinput] at hends
  have hfits := hends.length_lt hinv.input_length_le
  rw [heq] at hrun
  refine ⟨_, hrun, rfl, rfl, fun bytes hbytes => ?_, fun c hc => ?_, fun c hc => ?_,
    fun j => u.publish_obuf_beyond _ _ hfits, hsame.inLen, hsame.ibuf, rfl, henv⟩
  · rcases hends with ⟨hok, rfl⟩ | ⟨-, _, herr, -⟩ | ⟨-, _, herr, -⟩
    · cases hok.symm.trans hbytes
      exact ⟨rfl, u.publish_outLen_toNat _ _ hfits, u.publish_output_of_lt _ _ hfits⟩
    · cases herr.symm.trans hbytes
    · cases herr.symm.trans hbytes
  · rcases hends with ⟨hok, -⟩ | ⟨rfl, _, -, rfl⟩ | ⟨-, _, herr, -⟩
    · cases hok.symm.trans hc
    · exact ⟨rfl, rfl⟩
    · cases herr.symm.trans hc
  · rcases hends with ⟨hok, -⟩ | ⟨-, _, herr, -⟩ | ⟨rfl, _, -, rfl⟩
    · cases hok.symm.trans hc
    · cases herr.symm.trans hc
    · exact ⟨rfl, rfl⟩

/-! ## The registers -/

/-- Settles O26: each register is read at its own address. -/
theorem registerReads : Obligations.RegisterReads := by
  intro s
  have hctrl : ctrlWord s.irqEn = if s.irqEn then 0x00000001#32 else 0x00000000#32 := by
    cases s.irqEn <;> rfl
  have read (r : Reg) := s.readAnswer_reg r
  exact ⟨read .id, read .ibufSize, read .obufSize, (read .ctrl).trans (congrArg _ hctrl), read .cmd, read .status,
    read .inLen, read .outLen⟩

/-- Settles O29: a write to CTRL's address is `State.setIrqEn`, and irq reads DONE and IRQ_EN alone. -/
theorem ctrlWrite : Obligations.CtrlWrite := fun s w => ⟨_, s.transact_write_reg .ctrl w, rfl, rfl⟩

/-- Settles O30: bit 1 clears DONE, which is 0 already while a command runs. -/
theorem statusWrite : Obligations.StatusWrite := by
  intro s w
  have hwrite : s.transact (.write 0x00000014#32 w) =
      .next ((s.setStatus (s.status.afterWrite w)).respond (.write .okay)) := s.transact_write_reg .status w
  rw [hwrite]
  refine ⟨fun hw => ?_, fun hw => ?_, fun hinv hb => ?_⟩
  · rw [Status.afterWrite, if_pos hw]
    rfl
  · rw [Status.afterWrite, if_neg (ne_true_of_eq_false hw)]
    rfl
  · have hkept : s.status.afterWrite w = s.status := by
      rw [hinv.status_of_busy hb]
      rcases Status.accepted.afterWrite_cases w with h | h <;> exact h
    rw [hkept]
    rfl

theorem State.writeInLen_rejected {s : State} {w : Word}
    (h : s.status.busy = true ∨ s.params.ibufSize < w.toNat) : s.writeInLen w = s.respond (.write .slverr) := by
  rw [State.writeInLen, if_pos (by simpa using h)]

theorem State.writeInLen_accepted {s : State} {w : Word} (hb : s.status.busy = false)
    (hw : w.toNat ≤ s.params.ibufSize) : s.writeInLen w = (s.setInLen w).respond (.write .okay) := by
  rw [State.writeInLen, if_neg (by simp [hb, hw])]

/-- Settles O31: the two conditions of R149 are the guard of `State.writeInLen`. -/
theorem inLenWrite : Obligations.InLenWrite := fun s w =>
  ⟨fun h => (s.transact_write_reg .inLen w).trans (congrArg _ (State.writeInLen_rejected h)),
    fun ⟨hb, hw⟩ => (s.transact_write_reg .inLen w).trans (congrArg _ (State.writeInLen_accepted hb hw))⟩

/-! ## The windows -/

/-- A word of the IBUF window, by its number (R63). -/
theorem locate_ibuf_word {p : Params} (hp : p.legal = true) {a : Word} {k : Nat} (ha : a.toNat = 0x40000000 + 4 * k)
    (hk : 4 * k < p.ibufSize) : locate p a = .ibuf (4 * k) := by
  rw [locate_ibuf_of_window hp (by omega) (by omega) (by omega), ha, Nat.add_sub_cancel_left]

/-- A word of the OBUF window, by its number (R64). -/
theorem locate_obuf_word {p : Params} (hp : p.legal = true) {a : Word} {k : Nat} (ha : a.toNat = 0x80000000 + 4 * k)
    (hk : 4 * k < p.obufSize) : locate p a = .obuf (4 * k) := by
  rw [locate_obuf_of_window hp (by omega) (by omega) (by omega), ha, Nat.add_sub_cancel_left]

theorem State.transact_write_obuf {s : State} {a : Word} {j : Nat} (w : Word) (ha : locate s.params a = .obuf j) :
    s.transact (.write a w) = .next (s.respond (.write (if s.status.busy then .slverr else .okay))) := by
  simp [State.transact, State.writeWord, ha]

theorem State.transact_read_ibuf {s : State} {a : Word} {i : Nat} (ha : locate s.params a = .ibuf i)
    (hb : s.status.busy = false) : s.transact (.read a) = .next (s.respond (.read .okay (s.ibufWord i))) := by
  simp [State.transact, State.readAnswer, ha, hb]

theorem State.transact_read_obuf {s : State} {a : Word} {j : Nat} (ha : locate s.params a = .obuf j)
    (hb : s.status.busy = false) : s.transact (.read a) = .next (s.respond (.read .okay (s.obufWord j))) := by
  simp [State.transact, State.readAnswer, ha, hb]

/-- Settles O32: such a write is an answer and nothing else. -/
theorem readOnlyWrites : Obligations.ReadOnlyWrites := by
  intro s w hp
  refine ⟨fun a ha => ?_, fun a k ha hk => ?_⟩
  · rcases ha with rfl | rfl | rfl | rfl
    · exact s.transact_write_reg .id w
    · exact s.transact_write_reg .ibufSize w
    · exact s.transact_write_reg .obufSize w
    · exact s.transact_write_reg .outLen w
  · rw [State.transact_write_obuf w (locate_obuf_word hp ha hk)]
    refine ⟨fun hb => ?_, fun hb => ?_⟩ <;> rw [hb] <;> rfl

/-- Settles O33: the four bytes of the word stand at its four indices, and no other index is written. -/
theorem ibufWindowWrite : Obligations.IbufWindowWrite := by
  intro s a w k hp ha hk
  refine ⟨fun hb => (State.transact_window_busy hb hp w (by omega) (.inl (by omega))).2, fun hb => ?_⟩
  refine ⟨_, State.transact_write_ibuf w (locate_ibuf_word hp ha hk) hb, rfl, ?_, ?_, ?_, ?_, fun i hi => ?_⟩
  · simp [State.ibufByte_writeIbufWord, wordByte_toNat]
  · simp [State.ibufByte_writeIbufWord, wordByte_toNat]
  · simp [State.ibufByte_writeIbufWord, wordByte_toNat]
  · simp [State.ibufByte_writeIbufWord, wordByte_toNat]
  · rw [State.respond_ibufByte, State.ibufByte_writeIbufWord, if_neg (by omega), if_neg (by omega), if_neg (by omega),
      if_neg (by omega)]

/-- Settles O34: the word read is the four bytes packed. -/
theorem windowRead : Obligations.WindowRead := by
  intro s a k hp
  refine ⟨fun ha hk => ⟨fun hb => ?_, fun hb => ?_⟩, fun ha hk => ⟨fun hb => ?_, fun hb => ?_⟩⟩
  · exact (State.transact_window_busy hb hp 0 (by omega) (.inl (by omega))).1
  · exact ⟨_, State.transact_read_ibuf (locate_ibuf_word hp ha hk) hb, packWord_toNat ..⟩
  · exact (State.transact_window_busy hb hp 0 (by omega) (.inr (by omega))).1
  · exact ⟨_, State.transact_read_obuf (locate_obuf_word hp ha hk) hb, packWord_toNat ..⟩

/-! ## The rejected transactions -/

/-- The transaction is answered OKAY. -/
def State.Accepts (s : State) (x : Transaction) : Prop :=
  ∃ t a, s.transact x = .next t ∧ t.bus = some a ∧ a.isSlverr = false

/-- R154 for one transaction. -/
def State.SlverrIffRejects (s : State) (x : Transaction) : Prop :=
  (s.rejects x → s.transact x = .next (s.respond x.slverr)) ∧ (¬ s.rejects x → s.Accepts x)

theorem State.SlverrIffRejects.of_rejects {s : State} {x : Transaction} (h : s.rejects x)
    (ht : s.transact x = .next (s.respond x.slverr)) : s.SlverrIffRejects x :=
  ⟨fun _ => ht, fun hn => absurd h hn⟩

theorem State.SlverrIffRejects.of_not_rejects {s : State} {x : Transaction} (h : ¬ s.rejects x) (ht : s.Accepts x) :
    s.SlverrIffRejects x :=
  ⟨fun hr => absurd hr h, fun _ => ht⟩

/-- A misaligned or unmapped address leads nowhere, for a read and for a write (R65 to R67). -/
theorem State.transact_nowhere {s : State} {x : Transaction}
    (h : locate s.params x.addr = .misaligned ∨ locate s.params x.addr = .unmapped) :
    s.transact x = .next (s.respond x.slverr) := by
  cases x with
  | read a =>
    have hread : s.readAnswer a = readError := by
      unfold State.readAnswer
      rcases h with h | h <;> rw [show locate s.params a = _ from h]
    rw [State.transact, hread]
    rfl
  | write a w =>
    have hwrite : s.writeWord a w = .next (s.respond (.write .slverr)) := by
      unfold State.writeWord
      rcases h with h | h <;> rw [show locate s.params a = _ from h]
    exact hwrite

/-- Of the transactions on a window word R154 rejects those while BUSY. -/
theorem State.rejects_window_iff {s : State} {x : Transaction} (h4 : x.addr.toNat % 4 = 0)
    (hx : inWindow s.params x.addr.toNat) : s.rejects x ↔ s.status.busy = true := by
  refine ⟨?_, fun hb => .inr (.inr (.inl ⟨hb, hx⟩))⟩
  rintro (h | h | ⟨hb, -⟩ | ⟨w, rfl, hb⟩ | ⟨w, rfl, -⟩)
  · exact absurd h4 h
  · exact absurd (.inr hx) h
  · exact hb
  · exact hb
  · rcases hx with ⟨hlo, -⟩ | ⟨hlo, -⟩ <;> simp [Transaction.addr] at hlo

theorem State.accepts_window {s : State} {x : Transaction} (hb : s.status.busy = false)
    (hx : (∃ i, locate s.params x.addr = .ibuf i) ∨ ∃ j, locate s.params x.addr = .obuf j) : s.Accepts x := by
  cases x with
  | read a =>
    rcases hx with ⟨i, hx⟩ | ⟨j, hx⟩
    · exact ⟨_, _, State.transact_read_ibuf hx hb, rfl, rfl⟩
    · exact ⟨_, _, State.transact_read_obuf hx hb, rfl, rfl⟩
  | write a w =>
    rcases hx with ⟨i, hx⟩ | ⟨j, hx⟩
    · exact ⟨_, _, State.transact_write_ibuf w hx hb, rfl, rfl⟩
    · exact ⟨_, _, State.transact_write_obuf w hx, rfl, by rw [hb]; rfl⟩

theorem State.slverrIffRejects_window {s : State} {x : Transaction} (hp : s.params.legal = true)
    (h4 : x.addr.toNat % 4 = 0) (hw : inWindow s.params x.addr.toNat)
    (hx : (∃ i, locate s.params x.addr = .ibuf i) ∨ ∃ j, locate s.params x.addr = .obuf j) :
    s.SlverrIffRejects x := by
  have hrejects := State.rejects_window_iff h4 hw
  cases hb : s.status.busy with
  | true =>
    refine .of_rejects (hrejects.mpr hb) ?_
    cases x with
    | read a => exact (State.transact_window_busy hb hp 0 h4 hw).1
    | write a w => exact (State.transact_window_busy hb hp w h4 hw).2
  | false => exact .of_not_rejects (by simp [hrejects, hb]) (State.accepts_window hb hx)

/-- Of the transactions on a register R154 rejects the writes of R145 and R149. -/
theorem State.rejects_reg_iff {s : State} {x : Transaction} {r : Reg} (hx : x.addr = r.addr) :
    s.rejects x ↔ (∃ w, x = .write 0x00000010#32 w ∧ s.status.busy = true) ∨
      ∃ w, x = .write 0x00000018#32 w ∧ (s.status.busy = true ∨ s.params.ibufSize < w.toNat) := by
  have h4 : x.addr.toNat % 4 = 0 := by rw [hx]; cases r <;> rfl
  have h20 : x.addr.toNat < 0x20 := by rw [hx]; cases r <;> decide
  have hwin : ¬ inWindow s.params x.addr.toNat := by unfold inWindow; omega
  simp [State.rejects, h4, h20, hwin]

theorem State.rejects_writeReg_iff (s : State) (r : Reg) (w : Word) :
    s.rejects (.write r.addr w) ↔ (r = .cmd ∧ s.status.busy = true) ∨
      (r = .inLen ∧ (s.status.busy = true ∨ s.params.ibufSize < w.toNat)) := by
  rw [State.rejects_reg_iff (r := r) rfl]
  cases r <;> simp [Reg.addr, Reg.offset]

theorem State.not_rejects_readReg (s : State) (r : Reg) : ¬ s.rejects (.read r.addr) := by
  rw [State.rejects_reg_iff (r := r) rfl]
  simp

/-- An idle block answers every CMD write OKAY (R140, R144). -/
theorem writeCmd_idle_okay {s : State} (hb : s.status.busy = false) (w : Word) :
    ∃ t, writeCmd w s = .next t ∧ t.bus = some (.write .okay) := by
  cases hd : decode w with
  | ok i => exact ⟨_, (writeCmd_of_ok hd s).trans (exec_idle hb i), rfl⟩
  | error e => exact ⟨_, writeCmd_of_error hb hd, rfl⟩

theorem State.slverrIffRejects_writeReg (s : State) (r : Reg) (w : Word) :
    s.SlverrIffRejects (.write r.addr w) := by
  have hrejects := s.rejects_writeReg_iff r w
  have hwrite := s.transact_write_reg r w
  have haccepts (h : ∃ t, s.writeReg r w = .next t ∧ t.bus = some (.write .okay)) : s.Accepts (.write r.addr w) := by
    obtain ⟨t, ht, hbus⟩ := h
    exact ⟨t, _, hwrite.trans ht, hbus, rfl⟩
  cases r with
  | cmd =>
    cases hb : s.status.busy with
    | true => exact .of_rejects (hrejects.mpr (.inl ⟨rfl, hb⟩)) (hwrite.trans (writeCmd_busy hb w))
    | false => exact .of_not_rejects (by simp [hrejects, hb]) (haccepts (writeCmd_idle_okay hb w))
  | inLen =>
    by_cases h : s.status.busy = true ∨ s.params.ibufSize < w.toNat
    · exact .of_rejects (hrejects.mpr (.inr ⟨rfl, h⟩)) (hwrite.trans (congrArg _ (State.writeInLen_rejected h)))
    · obtain ⟨hb, hw⟩ := not_or.mp h
      have hok := State.writeInLen_accepted (eq_false_of_ne_true hb) (Nat.le_of_not_lt hw)
      exact .of_not_rejects (by simpa [hrejects] using h) (haccepts ⟨_, congrArg Host.Outcome.next hok, rfl⟩)
  | id | ibufSize | obufSize | ctrl | status | outLen =>
    exact .of_not_rejects (by simp [hrejects]) (haccepts (s.writeReg_okay w (by decide) (by decide)))

theorem State.slverrIffRejects_reg {s : State} {x : Transaction} {r : Reg} (hx : x.addr = r.addr) :
    s.SlverrIffRejects x := by
  cases x with
  | read a =>
    obtain rfl : a = r.addr := hx
    exact .of_not_rejects (s.not_rejects_readReg r) ⟨_, _, rfl, rfl, by rw [s.readAnswer_reg]; rfl⟩
  | write a w =>
    obtain rfl : a = r.addr := hx
    exact s.slverrIffRejects_writeReg r w

/-- Settles O37, by where the address leads: nowhere, to a register, or to a window word. -/
theorem slverrExactly : Obligations.SlverrExactly := by
  intro s x hp
  show s.SlverrIffRejects x
  rcases locate_cases s.params hp x.addr with ⟨h4, hl⟩ | ⟨-, -, r, hr, -⟩ | ⟨h4, hlo, hhi, hl⟩ | ⟨h4, hlo, hhi, hl⟩ |
      ⟨-, hout, hl⟩
  · exact .of_rejects (.inl h4) (State.transact_nowhere (.inl hl))
  · exact State.slverrIffRejects_reg hr
  · exact State.slverrIffRejects_window hp h4 (.inl ⟨hlo, hhi⟩) (.inl ⟨_, hl⟩)
  · exact State.slverrIffRejects_window hp h4 (.inr ⟨hlo, hhi⟩) (.inr ⟨_, hl⟩)
  · exact .of_rejects (.inr (.inl hout)) (State.transact_nowhere (.inr hl))

end Sys2Proof.Machine

/-! PROOF. The statements of 41_encoder.md: the counts and the present symbols; the lengths, which are {1} or the depths of
the leaves and make a legal set; the bounds of the code bits and of the container; the tree, where between two merges the
loop's list is the set of unmerged nodes in order; the packed body; and the containers of the empty input and of one
distinct symbol. -/

namespace Sys2Proof.Machine

/-! ## The counts and the present symbols -/

/-- Settles O42: the counting loop adds one for each byte to the counter of its symbol, and no byte is a symbol from 256
on. -/
theorem countIsOccurrences : Obligations.CountIsOccurrences := by
  intro inp
  have hle (s : Nat) : tableAt (freqOf inp) s ≤ inp.length := tableAt_le_of_forall_mem (freqOf_le inp) s
  refine ⟨fun s => ?_, freqOf_sum inp, fun hn s => ⟨hle s, by have := hle s; omega⟩, fun hnil s => ?_⟩
  · rcases Nat.lt_or_ge s 256 with hs | hs
    · exact tableAt_freqOf inp hs
    · rw [tableAt_of_length_le (by simpa using hs), eq_comm, List.countP_eq_zero]
      intro b _
      have := b.isLt
      simp only [decide_eq_true_eq]
      omega
  · have := hle s
    rw [hnil] at this ⊢
    exact Nat.le_zero.mp this

/-- A non-empty input has a present symbol (R172). -/
theorem inputSyms_length_pos {inp : List Byte} (h : inp ≠ []) : 0 < (inputSyms inp).length := by
  obtain ⟨b, hb⟩ := List.exists_mem_of_ne_nil inp h
  exact List.length_pos_of_mem (mem_inputSyms.mpr (List.mem_map_of_mem hb))

/-- Settles O43: P is the filter of the ascending list of all symbols by their counts. -/
theorem presentSymbolsAscending : Obligations.PresentSymbolsAscending := by
  intro inp
  refine ⟨List.pairwise_lt_range.filter _, fun s => ?_, fun s => by simp [inputSyms, presentSyms], fun hn => ?_⟩
  · rw [mem_inputSyms, List.mem_map]
  · exact ⟨inputSyms_length_pos (List.ne_nil_of_length_pos hn), inputSyms_length_le inp⟩

/-! ## The lengths -/

@[simp] theorem leafDepths_length (freq syms : List Nat) : (leafDepths freq syms).length = syms.length := by
  simpa [leafDepths, nodeDepths_eq_depthsFrom] using syms_length_le_buildTree freq syms

/-- With two leaves no leaf is the root: a leaf of depth 0 would fill the Kraft sum alone (R179). -/
theorem leafDepths_pos {freq syms : List Nat} (h : 2 ≤ syms.length) (h256 : syms.length ≤ 256) :
    ∀ d ∈ leafDepths freq syms, 0 < d := by
  intro d hd
  obtain ⟨-, hsum⟩ := leafDepths_kraft (freq := freq) (by omega) h256
  have hperm := List.perm_cons_erase hd
  obtain ⟨e, others, hothers⟩ : ∃ e others, (leafDepths freq syms).erase d = e :: others := by
    refine List.exists_cons_of_length_pos ?_
    rw [List.length_erase_of_mem hd, leafDepths_length]
    omega
  have hshare : 0 < depthShare e := Nat.two_pow_pos _
  rw [(hperm.map depthShare).sum_eq, hothers, List.map_cons, List.map_cons, List.sum_cons, List.sum_cons] at hsum
  rcases Nat.eq_zero_or_pos d with rfl | hpos
  · simp only [depthShare, Nat.sub_zero] at hsum hshare
    omega
  · exact hpos

/-- A symbol outside P has length 0 (R174, R179). -/
theorem tableAt_huffLengths_of_notMem (freq : List Nat) {syms : List Nat} {s : Nat} (hs : s ∉ syms) :
    tableAt (huffLengths freq syms) s = 0 := by
  have hzero {pairs : List (Nat × Nat)} (hp : s ∉ pairs.map Prod.fst) : tableAt (lenTable pairs) s = 0 := by
    rw [lenTable, tableAt_foldl_set_of_notMem _ hp, tableAt_zeroTable]
  unfold huffLengths
  split
  · exact hzero hs
  · refine hzero fun hmem => hs ?_
    obtain ⟨p, hp, rfl⟩ := List.mem_map.mp hmem
    exact (List.of_mem_zip hp).1

theorem tableAt_huffLengths_single (freq : List Nat) {s : Nat} (hs : s < 256) :
    tableAt (huffLengths freq [s]) s = 1 :=
  tableAt_lenTable (pairs := [(s, 1)]) (List.nodup_singleton s) (by simpa using hs) (List.mem_singleton_self (s, 1))

section
variable {freq syms : List Nat} (hnodup : syms.Nodup) (hlt : ∀ s ∈ syms, s < 256)
include hnodup hlt

/-- The lengths of the symbols of P, in order, are the depths of the leaves (R179). -/
theorem map_tableAt_huffLengths (h : 2 ≤ syms.length) :
    syms.map (tableAt (huffLengths freq syms)) = leafDepths freq syms := by
  refine List.ext_getElem (by simp) fun i hi _ => ?_
  rw [List.length_map] at hi
  have hleaf := tableAt_huffLengths (freq := freq) hnodup hlt h (p := (syms[i], i))
    (List.mem_zipIdx_iff_getElem?.mpr (List.getElem?_eq_getElem hi))
  have hlong : i < (nodeDepths (buildTree freq syms)).length := by
    rw [nodeDepths_eq_depthsFrom, depthsFrom_length]
    exact hi.trans_le (syms_length_le_buildTree freq syms)
  rw [List.getElem_map, hleaf, tableAt_eq_getElem hlong]
  simp only [leafDepths, List.getElem_take]

/-- A symbol of P has a length (R174, R179). -/
theorem tableAt_huffLengths_pos (h256 : syms.length ≤ 256) {s : Nat} (hs : s ∈ syms) :
    0 < tableAt (huffLengths freq syms) s := by
  match syms with
  | [] => simp at hs
  | [u] =>
    obtain rfl := List.mem_singleton.mp hs
    rw [tableAt_huffLengths_single freq (hlt s hs)]
    exact Nat.one_pos
  | u :: v :: rest =>
    refine leafDepths_pos (freq := freq) (by simp) h256 _ ?_
    rw [← map_tableAt_huffLengths hnodup hlt (by simp)]
    exact List.mem_map_of_mem hs

end

/-- The symbols with a length are the present ones (R189). -/
theorem mem_inputSyms_iff_length_pos {inp : List Byte} {s : Nat} :
    s ∈ inputSyms inp ↔ 0 < tableAt (inputLengths inp) s := by
  refine ⟨tableAt_huffLengths_pos (inputSyms_nodup inp) (fun _ => inputSyms_lt) (inputSyms_length_le inp), fun h => ?_⟩
  by_contra hs
  have := tableAt_huffLengths_of_notMem (freqOf inp) hs
  rw [inputLengths] at h
  omega

/-- The length set of an input: one length for each present symbol, ascending by symbol. -/
theorem presentLengths_inputLengths (inp : List Byte) :
    presentLengths (inputLengths inp) = (inputSyms inp).map (tableAt (inputLengths inp)) := by
  have hsyms : codedSyms (inputLengths inp) = inputSyms inp := by
    rw [codedSyms, inputSyms, presentSyms]
    refine List.filter_congr fun s hs => ?_
    rw [decide_eq_decide, ← mem_inputSyms_iff_length_pos, inputSyms, presentSyms, List.mem_filter, decide_eq_true_eq]
    exact and_iff_right hs
  rw [presentLengths_eq_map (inputLengths_length inp), hsyms]

/-- With one symbol the length is 1 by rule (R174). -/
theorem tableAt_inputLengths_single {inp : List Byte} {s : Nat} (h : inputSyms inp = [s]) :
    tableAt (inputLengths inp) s = 1 := by
  rw [inputLengths, h]
  exact tableAt_huffLengths_single _ (inputSyms_lt (inp := inp) (by simp [h]))

theorem presentLengths_of_single {inp : List Byte} (h : (inputSyms inp).length = 1) :
    presentLengths (inputLengths inp) = [1] := by
  obtain ⟨s, hs⟩ := List.length_eq_one_iff.mp h
  rw [presentLengths_inputLengths, hs, List.map_singleton, tableAt_inputLengths_single hs]

/-- With more symbols the lengths are the depths of the leaves (R179). -/
theorem presentLengths_of_two_le {inp : List Byte} (h : 2 ≤ (inputSyms inp).length) :
    presentLengths (inputLengths inp) = leafDepths (freqOf inp) (inputSyms inp) := by
  rw [presentLengths_inputLengths]
  exact map_tableAt_huffLengths (inputSyms_nodup inp) (fun _ => inputSyms_lt) h

/-- The leaves of a tree of two or more symbols fill the Kraft sum (R189). -/
theorem kraft_of_two_le {inp : List Byte} (h : 2 ≤ (inputSyms inp).length) : kraft (inputLengths inp) = 2 ^ 255 := by
  rw [kraft, presentLengths_of_two_le h]
  exact (leafDepths_kraft (by omega) (inputSyms_length_le inp)).2

theorem legalLengths_inputLengths {inp : List Byte} (h : inp ≠ []) : legalLengths (inputLengths inp) = true := by
  have hpos := inputSyms_length_pos h
  have hcount : (presentLengths (inputLengths inp)).length = (inputSyms inp).length := by
    rw [presentLengths_inputLengths, List.length_map]
  have hne : presentLengths (inputLengths inp) ≠ [] := List.ne_nil_of_length_pos (hcount ▸ hpos)
  have hcomplete : completeLengths (inputLengths inp) (inputSyms inp).length = true := by
    unfold completeLengths
    split
    · next hone => exact decide_eq_true (presentLengths_of_single hone)
    · next hone => exact decide_eq_true (kraft_of_two_le (by omega))
  simpa [legalLengths, hcount, hne, hcomplete] using (inputLengths_fitsKraft inp).le

/-- Settles O46: the lengths are {1} or the depths of the leaves, which fill the Kraft sum, and no canonical code of a
set that fits begins with another. -/
theorem encoderLengthsLegal : Obligations.EncoderLengthsLegal := fun _ hne =>
  ⟨legalLengths_inputLengths hne, fun _ => mem_inputSyms_iff_length_pos, presentLengths_of_single, kraft_of_two_le,
    fun _ _ hs ht => (inputLengths_fitsKraft _).codeBits_not_prefix (mem_inputSyms_iff_length_pos.mp hs)
      (mem_inputSyms_iff_length_pos.mp ht)⟩

/-! ## The number of code bits -/

/-- One symbol takes one bit for each of its occurrences (R174, R187, R190). -/
theorem totalBits_of_single {inp : List Byte} (h : (inputSyms inp).length = 1) :
    totalBits (freqOf inp) (inputLengths inp) (inputSyms inp) = inp.length := by
  have hsum := inputSyms_freq_sum inp
  obtain ⟨s, hs⟩ := List.length_eq_one_iff.mp h
  rw [hs] at hsum
  simpa [totalBits, hs, tableAt_inputLengths_single hs] using hsum

/-- Settles O53: the bounds of the code bits and of the container (R187), and the room that R8 gives OBUF. -/
theorem encodeBound : Obligations.EncodeBound := by
  intro p inp hp hn
  obtain ⟨-, -, -, -, -, -, hobuf⟩ := (Params.legal_iff p).mp hp
  exact ⟨totalBits_input_le inp, packedBody_length_le inp, huffEncode_length_le inp, by omega, totalBits_of_single⟩

/-! ## The tree -/

/-- A loop with enough unmerged nodes makes one node for each merge (R177). -/
theorem mergeLoop_length {fuel : Nat} {active : List Active} (nodes : List HuffNode) (h : fuel ≤ active.length - 1) :
    (mergeLoop fuel active nodes).length = nodes.length + fuel := by
  induction fuel generalizing active nodes with
  | zero => rfl
  | succ k ih =>
    match active with
    | [] => simp at h
    | [_] => simp at h
    | a :: b :: rest =>
      have hperm := (insertActive_perm (a.1 + b.1, nodes.length) rest).length_eq
      simp only [List.length_cons] at h hperm
      rw [mergeLoop, ih _ (by omega), List.length_append, List.length_singleton]
      omega

/-- S leaves and S - 1 internal nodes (R177). -/
theorem buildTree_length (freq syms : List Nat) : (buildTree freq syms).length = 2 * syms.length - 1 := by
  have hperm := (initialActive_indices (leafNodes freq syms)).length_eq
  rw [List.length_map, List.length_range, leafNodes_length] at hperm
  rw [buildTree, mergeLoop_length _ (by omega), leafNodes_length]
  omega

/-! ## The order of the unmerged nodes -/

theorem comesBefore_iff {a b : Active} : comesBefore a b = true ↔ a.1 < b.1 ∨ a.1 = b.1 ∧ a.2 < b.2 := by
  simp [comesBefore]

/-- The unmerged nodes are in the order of R176: none comes before an earlier one. -/
def InOrder (l : List Active) : Prop := l.Pairwise fun a b => ¬ comesBefore b a = true

theorem InOrder.tail {x : Active} {l : List Active} (h : InOrder (x :: l)) : InOrder l := (List.pairwise_cons.mp h).2

/-- Sorting a node in keeps the order (R176). -/
theorem InOrder.insertActive {l : List Active} (h : InOrder l) (x : Active) : InOrder (insertActive x l) := by
  induction l with
  | nil => exact List.pairwise_singleton _ _
  | cons y l ih =>
    obtain ⟨hy, hl⟩ := List.pairwise_cons.mp h
    unfold Machine.insertActive
    split
    · next hxy =>
      refine List.pairwise_cons.mpr ⟨fun z hz => ?_, h⟩
      rw [comesBefore_iff] at hxy ⊢
      rcases List.mem_cons.mp hz with rfl | hz
      · omega
      · have hzy := hy z hz
        rw [comesBefore_iff] at hzy
        omega
    · next hxy =>
      refine List.pairwise_cons.mpr ⟨fun z hz => ?_, ih hl⟩
      rcases List.mem_cons.mp ((insertActive_perm x l).mem_iff.mp hz) with rfl | hz
      · exact hxy
      · exact hy z hz

theorem initialActive_inOrder (leaves : List HuffNode) : InOrder (initialActive leaves) := by
  unfold initialActive
  induction leaves.zipIdx.map fun p => (p.1.weight, p.2) with
  | nil => exact List.Pairwise.nil
  | cons x l ih => exact ih.insertActive x

/-- Nodes in order with different indices come one before the other: R176 leaves no tie. -/
theorem InOrder.comesBefore {x y : Active} {l : List Active} (h : InOrder (x :: l)) (hy : y ∈ l) (hne : x.2 ≠ y.2) :
    comesBefore x y = true := by
  have hyx := (List.pairwise_cons.mp h).1 y hy
  rw [comesBefore_iff] at hyx ⊢
  omega

/-! ## Merged and unmerged nodes -/

/-- Every child was made before its parent (R177). -/
def ChildrenBefore (t : List HuffNode) : Prop :=
  ∀ m w l r : Nat, t[m]? = some (HuffNode.inner w l r) → l < m ∧ r < m

theorem ChildrenBefore.append_inner {t : List HuffNode} (ht : ChildrenBefore t) (w : Nat) {a b : Nat}
    (ha : a < t.length) (hb : b < t.length) : ChildrenBefore (t ++ [HuffNode.inner w a b]) := by
  intro m v l r hx
  obtain ⟨hm, -⟩ := List.getElem?_eq_some_iff.mp hx
  rw [List.length_append, List.length_singleton] at hm
  rcases Nat.lt_succ_iff_lt_or_eq.mp hm with hm | rfl
  · exact ht m v l r (List.getElem?_append_left hm ▸ hx)
  · cases List.getElem?_concat_length.symm.trans hx
    exact ⟨ha, hb⟩

theorem weightAt_of_getElem? {t : List HuffNode} {i : Nat} {x : HuffNode} (h : t[i]? = some x) :
    weightAt t i = x.weight := by rw [weightAt, h]

/-- A node made later changes no weight. -/
theorem weightAt_prefix {t u : List HuffNode} (h : t <+: u) {i : Nat} (hi : i < t.length) :
    weightAt u i = weightAt t i := by
  rw [weightAt_of_getElem? (List.prefix_iff_getElem?.mp h i hi), weightAt_of_getElem? (List.getElem?_eq_getElem hi)]

/-- Whether a node is unmerged when node `n` is made depends on the nodes before `n` (R177). -/
theorem unmergedBefore_prefix {t u : List HuffNode} (h : t <+: u) {n : Nat} (hn : n ≤ t.length) (c : Nat) :
    unmergedBefore u n c ↔ unmergedBefore t n c := by
  have hget {m : Nat} (hm : m < n) : u[m]? = t[m]? := by
    rw [List.prefix_iff_getElem?.mp h m (by omega), List.getElem?_eq_getElem (by omega)]
  refine and_congr_right fun _ => forall₄_congr fun m w l r => forall_congr' fun hm => ?_
  rw [hget hm]

/-- After a merge the new node is unmerged, and of the others those that it does not merge (R177). -/
theorem unmergedBefore_append_inner {t : List HuffNode} (ht : ChildrenBefore t) (w : Nat) {a b : Nat}
    (ha : a < t.length) (hb : b < t.length) (c : Nat) :
    unmergedBefore (t ++ [HuffNode.inner w a b]) (t.length + 1) c ↔
      c = t.length ∨ unmergedBefore t t.length c ∧ c ≠ a ∧ c ≠ b := by
  have hnew : (t ++ [HuffNode.inner w a b])[t.length]? = some (HuffNode.inner w a b) := List.getElem?_concat_length
  rw [← unmergedBefore_prefix (List.prefix_append t [HuffNode.inner w a b]) (Nat.le_refl _)]
  constructor
  · rintro ⟨hc, hall⟩
    rcases Nat.lt_succ_iff_lt_or_eq.mp hc with hc | hc
    · exact .inr ⟨⟨hc, fun m v l r hm => hall m v l r (by omega)⟩, hall _ w a b (Nat.lt_succ_self _) hnew⟩
    · exact .inl hc
  · rintro (rfl | ⟨⟨hc, hall⟩, hne⟩)
    · refine ⟨Nat.lt_succ_self _, fun m v l r hm hx => ?_⟩
      have := ht.append_inner w ha hb m v l r hx
      omega
    · refine ⟨by omega, fun m v l r hm hx => ?_⟩
      rcases Nat.lt_succ_iff_lt_or_eq.mp hm with hm | rfl
      · exact hall m v l r hm hx
      · cases hnew.symm.trans hx
        exact hne

/-- Between two merges: the loop's list is in order and holds exactly the nodes that are nobody's child, with their
weights (R177). -/
structure MergeState (active : List Active) (nodes : List HuffNode) : Prop extends ActiveIn active nodes.length where
  order : InOrder active
  children : ChildrenBefore nodes
  mem_iff : ∀ c : Active, c ∈ active ↔ c.1 = weightAt nodes c.2 ∧ unmergedBefore nodes nodes.length c.2

/-- Before the first merge no node is a child, and the list holds all leaves. -/
theorem MergeState.initial (freq syms : List Nat) :
    MergeState (initialActive (leafNodes freq syms)) (leafNodes freq syms) := by
  have hleaf (m w l r : Nat) : (leafNodes freq syms)[m]? ≠ some (HuffNode.inner w l r) := by simp [leafNodes]
  refine ⟨initialActive_in _, initialActive_inOrder _, fun m w l r hx => absurd hx (hleaf m w l r), fun c => ?_⟩
  rw [(initialActive_perm _).mem_iff, List.mem_map]
  constructor
  · rintro ⟨⟨x, i⟩, hx, rfl⟩
    have hget := List.mem_zipIdx_iff_getElem?.mp hx
    obtain ⟨hi, -⟩ := List.getElem?_eq_some_iff.mp hget
    exact ⟨(weightAt_of_getElem? hget).symm, hi, fun m w l r _ hm => absurd hm (hleaf m w l r)⟩
  · rintro ⟨hw, hi, -⟩
    refine ⟨((leafNodes freq syms)[c.2], c.2), List.mem_zipIdx_iff_getElem?.mpr (List.getElem?_eq_getElem hi), ?_⟩
    rw [← weightAt_of_getElem? (List.getElem?_eq_getElem hi), ← hw]

section
variable {nodes : List HuffNode} {a b : Active} {rest : List Active} (h : MergeState (a :: b :: rest) nodes)
include h

/-- The nodes a merge leaves in the list are those it does not make children. -/
theorem MergeState.mem_rest_iff (c : Active) : c ∈ rest ↔ c ∈ a :: b :: rest ∧ c.2 ≠ a.2 ∧ c.2 ≠ b.2 := by
  have hnodup := h.nodup
  simp only [List.map_cons, List.nodup_cons, List.mem_cons, not_or] at hnodup
  obtain ⟨⟨-, hna⟩, hnb, -⟩ := hnodup
  constructor
  · intro hc
    have hc' := List.mem_map_of_mem (f := Prod.snd) hc
    exact ⟨by simp [hc], fun he => hna (he ▸ hc'), fun he => hnb (he ▸ hc')⟩
  · rintro ⟨hc, hca, hcb⟩
    rw [List.mem_cons, List.mem_cons] at hc
    rcases hc with rfl | rfl | hc
    · exact absurd rfl hca
    · exact absurd rfl hcb
    · exact hc

/-- A merge takes two nodes from the unmerged ones and adds their parent (R177). -/
theorem MergeState.merge :
    MergeState (insertActive (a.1 + b.1, nodes.length) rest) (nodes ++ [HuffNode.inner (a.1 + b.1) a.2 b.2]) := by
  have ha := h.lt a (by simp)
  have hb := h.lt b (by simp)
  refine ⟨by simpa using h.toActiveIn.merge (a.1 + b.1), h.order.tail.tail.insertActive _, h.children.append_inner _ ha hb,
    fun c => ?_⟩
  have hnew : weightAt (nodes ++ [HuffNode.inner (a.1 + b.1) a.2 b.2]) nodes.length = a.1 + b.1 :=
    weightAt_of_getElem? List.getElem?_concat_length
  rw [(insertActive_perm _ _).mem_iff, List.mem_cons, h.mem_rest_iff c, h.mem_iff c, List.length_append,
    List.length_singleton, unmergedBefore_append_inner h.children _ ha hb]
  obtain ⟨w, i⟩ := c
  rw [Prod.mk.injEq]
  rcases eq_or_ne i nodes.length with rfl | hi
  · have hnot : ¬ unmergedBefore nodes nodes.length nodes.length := fun hu => Nat.lt_irrefl _ hu.1
    simp [hnew, hnot]
  · have hold : unmergedBefore nodes nodes.length i →
        weightAt (nodes ++ [HuffNode.inner (a.1 + b.1) a.2 b.2]) i = weightAt nodes i :=
      fun hu => weightAt_prefix (List.prefix_append _ _) hu.1
    simp only [hi, and_false, false_or]
    constructor
    · rintro ⟨⟨hw, hu⟩, hne⟩
      exact ⟨hw.trans (hold hu).symm, hu, hne⟩
    · rintro ⟨hw, hu, hne⟩
      exact ⟨⟨hw.trans (hold hu), hu⟩, hne⟩

end

/-- Node `n` of a tree merges the first two of the nodes that are unmerged when it is made, the first on the left (R176 to
R178). -/
def MergesFirstTwo (t : List HuffNode) (n : Nat) : Prop :=
  ∃ a b : Nat, t[n]? = some (HuffNode.inner (weightAt t a + weightAt t b) a b) ∧
    unmergedBefore t n a ∧ unmergedBefore t n b ∧ comesBefore (weightAt t a, a) (weightAt t b, b) = true ∧
    ∀ c, unmergedBefore t n c → c ≠ a → c ≠ b → comesBefore (weightAt t b, b) (weightAt t c, c) = true

/-- The first two nodes of the list are the first two of the unmerged nodes (R177). -/
theorem MergeState.mergesFirstTwo {a b : Active} {rest : List Active} {nodes t : List HuffNode}
    (h : MergeState (a :: b :: rest) nodes) (ht : nodes ++ [HuffNode.inner (a.1 + b.1) a.2 b.2] <+: t) :
    MergesFirstTwo t nodes.length := by
  have hpre : nodes <+: t := (List.prefix_append _ _).trans ht
  have hmem {c : Nat} (hc : unmergedBefore t nodes.length c) : (weightAt t c, c) ∈ a :: b :: rest := by
    rw [h.mem_iff]
    exact ⟨weightAt_prefix hpre hc.1, (unmergedBefore_prefix hpre (Nat.le_refl _) c).mp hc⟩
  have hunmerged {c : Active} (hc : c ∈ a :: b :: rest) :
      weightAt t c.2 = c.1 ∧ unmergedBefore t nodes.length c.2 := by
    obtain ⟨hw, hu⟩ := (h.mem_iff c).mp hc
    exact ⟨(weightAt_prefix hpre hu.1).trans hw.symm, (unmergedBefore_prefix hpre (Nat.le_refl _) _).mpr hu⟩
  obtain ⟨hwa, hua⟩ := hunmerged (c := a) (by simp)
  obtain ⟨hwb, hub⟩ := hunmerged (c := b) (by simp)
  have hne : a.2 ≠ b.2 := fun he => (List.nodup_cons.mp h.nodup).1 (by simp [he])
  have hnode := List.prefix_iff_getElem?.mp ht nodes.length (by simp)
  rw [List.getElem_concat_length rfl] at hnode
  refine ⟨a.2, b.2, ?_, hua, hub, ?_, fun c hc hca hcb => ?_⟩
  · rw [hnode, hwa, hwb]
  · rw [hwa, hwb]
    exact h.order.comesBefore (by simp) hne
  · rw [hwb]
    exact h.order.tail.comesBefore ((h.mem_rest_iff _).mpr ⟨hmem hc, hca, hcb⟩) hcb.symm

/-- Every node the loop makes merges the first two (R177). -/
theorem mergeLoop_mergesFirstTwo {fuel : Nat} {active : List Active} {nodes : List HuffNode}
    (h : MergeState active nodes) {n : Nat} (hn : nodes.length ≤ n) (hlt : n < (mergeLoop fuel active nodes).length) :
    MergesFirstTwo (mergeLoop fuel active nodes) n := by
  induction fuel generalizing active nodes with
  | zero => exact absurd hlt (Nat.not_lt.mpr hn)
  | succ k ih =>
    match active with
    | [] => exact absurd hlt (Nat.not_lt.mpr hn)
    | [_] => exact absurd hlt (Nat.not_lt.mpr hn)
    | a :: b :: rest =>
      rw [mergeLoop] at hlt ⊢
      rcases Nat.eq_or_lt_of_le hn with rfl | hn
      · exact h.mergesFirstTwo (mergeLoop_prefix _ _ _)
      · exact ih h.merge (by simpa using hn) hlt

/-- The loop ends with one unmerged node, of the weight of all nodes it began with (R177). -/
theorem mergeLoop_final {fuel : Nat} {active : List Active} {nodes : List HuffNode} (h : MergeState active nodes)
    (hlen : active.length = fuel + 1) : ∃ root, root.1 = weightSum active ∧
      MergeState [root] (mergeLoop fuel active nodes) := by
  induction fuel generalizing active nodes with
  | zero =>
    obtain ⟨a, rfl⟩ := List.length_eq_one_iff.mp hlen
    exact ⟨a, rfl, h⟩
  | succ k ih =>
    match active with
    | [] => simp at hlen
    | [_] => simp at hlen
    | a :: b :: rest =>
      have hperm := (insertActive_perm (a.1 + b.1, nodes.length) rest).length_eq
      simp only [List.length_cons] at hlen hperm
      obtain ⟨root, hroot, hfinal⟩ := ih h.merge (by omega)
      refine ⟨root, ?_, hfinal⟩
      rw [hroot, weightSum_insertActive, weightSum_cons, weightSum_cons, Nat.add_assoc]

/-- The one unmerged node is the last of the array: a later node would be nobody's child (R177). -/
theorem MergeState.weightAt_last {root : Active} {t : List HuffNode} (h : MergeState [root] t) :
    weightAt t (t.length - 1) = root.1 := by
  have hpos := h.lt root (by simp)
  have hlast : unmergedBefore t t.length (t.length - 1) := by
    refine ⟨by omega, fun m w l r hm hx => ?_⟩
    have := h.children m w l r hx
    omega
  have hroot := (h.mem_iff (weightAt t (t.length - 1), t.length - 1)).mpr ⟨rfl, hlast⟩
  exact congrArg Prod.fst (List.mem_singleton.mp hroot)

/-! ## The tree of an input -/

/-- Leaf `n` carries the n-th symbol and its count (R175). -/
theorem buildTree_leaf_eq {freq syms : List Nat} {n s : Nat} (h : syms[n]? = some s) :
    (buildTree freq syms)[n]? = some (HuffNode.leaf (tableAt freq s) s) := by
  obtain ⟨hn, rfl⟩ := List.getElem?_eq_some_iff.mp h
  have hleaf := List.prefix_iff_getElem?.mp (mergeLoop_prefix (syms.length - 1) (initialActive (leafNodes freq syms))
    (leafNodes freq syms)) n (by simpa using hn)
  exact hleaf.trans (by simp [leafNodes])

/-- The weights of the leaves sum to N (R171, R175). -/
theorem weightSum_initialActive (inp : List Byte) :
    weightSum (initialActive (leafNodes (freqOf inp) (inputSyms inp))) = inp.length := by
  rw [weightSum, (initialActive_weights _).sum_eq, leafNodes, List.map_map]
  exact inputSyms_freq_sum inp

/-- Settles O44: between two merges the loop's list is the set of unmerged nodes, in order (`MergeState`). -/
theorem mergeLoopOrder : Obligations.MergeLoopOrder := by
  rintro inp h tr rfl
  have hinit := MergeState.initial (freqOf inp) (inputSyms inp)
  have hcount := (initialActive_indices (leafNodes (freqOf inp) (inputSyms inp))).length_eq
  rw [List.length_map, List.length_range, leafNodes_length] at hcount
  obtain ⟨root, hroot, hfinal⟩ := mergeLoop_final (fuel := (inputSyms inp).length - 1) hinit (by omega)
  refine ⟨buildTree_length _ _, fun n s => buildTree_leaf_eq,
    fun n hn hlt => mergeLoop_mergesFirstTwo hinit (by simpa using hn) hlt, ?_⟩
  rw [buildTree, hfinal.weightAt_last, hroot, weightSum_initialActive]

/-- Settles O45: the widths of the tree, of the lengths and of the codes (R186). -/
theorem encoderWidths : Obligations.EncoderWidths := by
  intro inp _
  have hsyms := inputSyms_length_le inp
  have hlengths := inputLengths_fitsKraft inp
  refine ⟨fun x hx => ?_, fun w l r hx => (buildTree_within inp _ hx).2, by rw [buildTree_length]; omega,
    fun h s => ?_, fun s => ⟨hlengths.tableAt_le s, hlengths.canonCodes_lt⟩⟩
  · have hwithin := buildTree_within inp x hx
    cases x with
    | leaf w s => exact hwithin.1
    | inner w l r => exact hwithin.1
  · by_cases hs : s ∈ inputSyms inp
    · refine (leafDepths_kraft (freq := freqOf inp) (by omega) hsyms).1 _ ?_
      rw [← map_tableAt_huffLengths (inputSyms_nodup inp) (fun _ => inputSyms_lt) h]
      exact List.mem_map_of_mem hs
    · rw [inputLengths, tableAt_huffLengths_of_notMem _ hs]
      exact Nat.zero_le _

/-! ## The packed body -/

/-- A number with zero bits below it, as a bit string (R13). -/
theorem bitsMsb_mul_two_pow (l c m : Nat) : bitsMsb (l + m) (c * 2 ^ m) = bitsMsb l c ++ List.replicate m false := by
  induction m with
  | zero => simp
  | succ m ih =>
    have hsnoc : bitsMsb (l + m + 1) (2 * (c * 2 ^ m)) = bitsMsb (l + m) (c * 2 ^ m) ++ [false] :=
      bitsMsb_snoc (l + m) (c * 2 ^ m) false
    rw [← Nat.add_assoc, Nat.pow_succ', Nat.mul_left_comm, hsnoc, ih, List.append_assoc, List.replicate_succ']

/-- A byte holds a number of 8 bits. -/
theorem bitsMsb_ofNat {c : Nat} (h : c < 2 ^ 8) : bitsMsb 8 (BitVec.ofNat 8 c).toNat = bitsMsb 8 c := by
  rw [BitVec.toNat_ofNat, Nat.mod_eq_of_lt h]

/-- The packer writes the bits in ACC, then its own, then zero bits to the end of a byte (R182). -/
theorem bytesBits_packBits (bits : List Bool) {acc nacc : Nat} (hn : nacc < 8) (ha : acc < 2 ^ nacc) :
    bytesBits (packBits bits acc nacc) =
      bitsMsb nacc acc ++ bits ++ List.replicate (padCount (nacc + bits.length)) false := by
  induction bits generalizing acc nacc with
  | nil =>
    rw [packBits, List.append_nil, List.length_nil, Nat.add_zero]
    split
    · next hpos =>
      have hbyte := bitsMsb_mul_two_pow nacc acc (8 - nacc)
      have hlt : acc * 2 ^ (8 - nacc) < 2 ^ 8 := by
        have hpow : (2 : Nat) ^ 8 = 2 ^ nacc * 2 ^ (8 - nacc) := by rw [← Nat.pow_add]; congr 1; omega
        rw [hpow]
        exact Nat.mul_lt_mul_of_pos_right ha (Nat.two_pow_pos _)
      have hpad : padCount nacc = 8 - nacc := by unfold padCount; omega
      rw [Nat.add_sub_cancel' hn.le] at hbyte
      rw [bytesBits_cons, show acc * 2 ^ (8 - nacc) % 256 = _ from Nat.mod_eq_of_lt hlt, bitsMsb_ofNat hlt, hbyte,
        hpad]
      exact List.append_nil _
    · next hzero =>
      obtain rfl : nacc = 0 := by omega
      rfl
  | cons b rest ih =>
    obtain ⟨hpush, hlt⟩ := pushBit_eq b hn ha
    have hsplit : bitsMsb nacc acc ++ b :: rest = bitsMsb (nacc + 1) (pushBit acc b) ++ rest := by
      rw [hpush, bitsMsb_snoc, List.append_assoc]
      rfl
    rw [packBits, hsplit, List.length_cons]
    split
    · next h8 =>
      have hpad : padCount (nacc + (rest.length + 1)) = padCount (0 + rest.length) := by unfold padCount; omega
      rw [h8] at hlt ⊢
      rw [bytesBits_cons, bitsMsb_ofNat hlt, ih (by decide) (by decide), hpad, List.append_assoc]
      rfl
    · rw [ih (by omega) hlt, Nat.add_right_comm, Nat.add_assoc]

/-- Settles O50: the packer of R182 started with an empty ACC. -/
theorem packedBodyIsTheBitString : Obligations.PackedBodyIsTheBitString := by
  intro bits
  obtain ⟨hrest, -⟩ := packRest_spec bits (acc := 0) (nacc := 0) (by decide) (by decide)
  have hbits := bytesBits_packBits bits (acc := 0) (nacc := 0) (by decide) (by decide)
  rw [Nat.zero_add] at hrest hbits
  have hpad : padCount bits.length = (8 - bits.length % 8) % 8 := rfl
  refine ⟨?_, by omega, hbits, hrest, by omega⟩
  rw [packBits_length _ _ (by decide)]
  omega

/-! ## The container -/

theorem huffEncode_of_ne_nil {inp : List Byte} (h : inp ≠ []) :
    huffEncode inp = writeContainer inp (freqOf inp) (inputLengths inp) (inputCodes inp) (inputSyms inp) := by
  cases inp with
  | nil => exact absurd rfl h
  | cons => rfl

/-- Header and body of a container (R184). -/
theorem huffEncode_length {inp : List Byte} (h : inp ≠ []) : (huffEncode inp).length =
    10 + 2 * (inputSyms inp).length + (totalBits (freqOf inp) (inputLengths inp) (inputSyms inp) + 7) / 8 := by
  rw [huffEncode_of_ne_nil h, writeContainer, List.length_append, containerHeader_length,
    packBits_length _ _ (by decide), streamBits_length, Nat.zero_add]

/-- Settles O51: the length of each part of the container, and what a completion of COMPRESS publishes. -/
theorem compressResultLength : Obligations.CompressResultLength := by
  refine fun inp => ⟨?_, huffEncode_length, ?_⟩
  · rintro rfl
    rfl
  · rintro s henc rfl
    rw [State.complete_encoder henc]
    exact ⟨rfl, rfl⟩

/-- Settles O41: an empty input ends the encoder before its tree (R173). -/
theorem emptyInputContainer : Obligations.EmptyInputContainer :=
  ⟨rfl, fun _ => ⟨rfl, rfl, rfl, rfl, rfl⟩⟩

/-! ## One distinct symbol -/

/-- P of `n` copies of a byte (R190). -/
theorem inputSyms_replicate (b : Byte) {n : Nat} (hn : n ≠ 0) : inputSyms (List.replicate n b) = [b.toNat] := by
  have hmem (s : Nat) : s ∈ inputSyms (List.replicate n b) ↔ s ∈ [b.toNat] := by
    rw [mem_inputSyms, List.map_replicate, List.mem_replicate, List.mem_singleton]
    exact and_iff_right hn
  exact List.perm_singleton.mp
    ((List.perm_ext_iff_of_nodup (inputSyms_nodup _) (List.nodup_singleton _)).mpr hmem)

/-- The code of the only symbol is one zero bit (R174, R190). -/
theorem codeBits_single {inp : List Byte} {s : Nat} (h : inputSyms inp = [s]) :
    codeBits (inputLengths inp) (inputCodes inp) s = [false] := by
  have hone : presentLengths (inputLengths inp) = [1] := presentLengths_of_single (by rw [h, List.length_singleton])
  have hlength := tableAt_inputLengths_single h
  have hcode : tableAt (inputCodes inp) s = 0 := (inputLengths_fitsKraft inp).canonCodes_of_single hone (by omega)
  rw [codeBits, hlength, hcode]
  rfl

/-- Zero bits pack to zero bytes (R182). -/
theorem eq_zero_of_mem_packBits_replicate_false {n nacc : Nat} :
    ∀ y ∈ packBits (List.replicate n false) 0 nacc, y = 0#8 := by
  induction n generalizing nacc with
  | zero =>
    intro y hy
    rw [List.replicate_zero, packBits] at hy
    split at hy
    · simpa using hy
    · simp at hy
  | succ n ih =>
    intro y hy
    rw [List.replicate_succ, packBits] at hy
    split at hy
    · rcases List.mem_cons.mp hy with rfl | hy
      · rfl
      · exact ih y hy
    · exact ih y hy

theorem packBits_replicate_false (n : Nat) :
    packBits (List.replicate n false) 0 0 = List.replicate ((n + 7) / 8) 0x00#8 :=
  List.eq_replicate_iff.mpr
    ⟨by rw [packBits_length _ _ (by decide), List.length_replicate, Nat.zero_add],
      eq_zero_of_mem_packBits_replicate_false⟩

/-- Settles O52: the body packs one zero bit for each byte of the input. -/
theorem singleSymbolSize : Obligations.SingleSymbolSize := by
  intro b n hn _
  have hsyms := inputSyms_replicate b (show n ≠ 0 by omega)
  have htotal : totalBits (freqOf (List.replicate n b)) (inputLengths (List.replicate n b))
      (inputSyms (List.replicate n b)) = n := by
    rw [totalBits_of_single (by rw [hsyms, List.length_singleton]), List.length_replicate]
  have hstream : streamBits (inputLengths (List.replicate n b)) (inputCodes (List.replicate n b)) (List.replicate n b) =
      List.replicate n false := by
    rw [streamBits, List.flatMap_replicate, codeBits_single hsyms]
    simp
  have htab : symTab (inputLengths (List.replicate n b)) [b.toNat] = [b, 0x01#8] := by
    rw [symTab, List.flatMap_singleton, tableAt_inputLengths_single hsyms, BitVec.ofNat_toNat, BitVec.setWidth_eq]
  refine ⟨htotal, hstream, ?_⟩
  rw [huffEncode_of_ne_nil (by simp; omega), writeContainer, hstream, packBits_replicate_false, containerHeader, htotal,
    hsyms, htab, List.length_replicate]
  simp [tag, padCount]

end Sys2Proof.Machine

/-! PROOF. The statements of 42_decoder.md: the decoder tree is the trie of the codes, the parser reads back the fields the
encoder wrote, so that Decode undoes Encode, for functions and on the block; a truncated container is rejected with the class
of the field it ends in; no claim of ORIG_LEN makes the unpacker emit beyond the bits; and the pad bits are not examined. -/

namespace Sys2Proof.Machine

/-! ## Walking down the decoder tree -/

/-- The node a bit string leads to from node `j` (R234); from the root it is `descend`. -/
def descendFrom (t : List TrieNode) (j : Nat) (bits : List Bool) : Option Nat :=
  bits.foldl (fun j b => j.bind fun k => childOf t k b) (some j)

@[simp] theorem descendFrom_nil (t : List TrieNode) (j : Nat) : descendFrom t j [] = some j := rfl

@[simp] theorem descendFrom_cons (t : List TrieNode) (j : Nat) (b : Bool) (rest : List Bool) :
    descendFrom t j (b :: rest) = (childOf t j b).bind fun c => descendFrom t c rest := by
  have hnone : rest.foldl (fun (j : Option Nat) b => j.bind fun k => childOf t k b) none = none := by
    induction rest with
    | nil => rfl
    | cons _ rest ih => exact ih
  rw [descendFrom, List.foldl_cons, Option.bind_some]
  cases childOf t j b with
  | none => exact hnone
  | some c => rfl

/-- A bit string leads from node `j` to the leaf of `s`. -/
def ReachesLeaf (t : List TrieNode) (j : Nat) (bits : List Bool) (s : Nat) : Prop :=
  ∃ c, descendFrom t j bits = some c ∧ leafSym t c = some s

/-- From the root this is the walk of `descend` (R234). -/
theorem reachesLeaf_zero_iff {t : List TrieNode} {bits : List Bool} {s : Nat} :
    ReachesLeaf t 0 bits s ↔ ∃ j, descend t bits = some j ∧ leafSym t j = some s := Iff.rfl

theorem ReachesLeaf.cons {t : List TrieNode} {j c : Nat} {b : Bool} {rest : List Bool} {s : Nat}
    (h : ReachesLeaf t c rest s) (hc : childOf t j b = some c) : ReachesLeaf t j (b :: rest) s := by
  simpa [ReachesLeaf, hc] using h

/-- The bit string that leads to a node is the path the invariant lists for it. -/
theorem TriePaths.descendFrom_path {codes : Nat → List Bool} {syms done : List Nat} {t : List TrieNode}
    {paths : List (List Bool)} (h : TriePaths codes syms done t paths) {j c : Nat} {p bits : List Bool}
    (hp : paths[j]? = some p) (hc : descendFrom t j bits = some c) : paths[c]? = some (p ++ bits) := by
  induction bits generalizing j p with
  | nil =>
    obtain rfl : j = c := Option.some_inj.mp hc
    rw [hp, List.append_nil]
  | cons b rest ih =>
    rw [descendFrom_cons, Option.bind_eq_some_iff] at hc
    obtain ⟨k, hk, hc⟩ := hc
    obtain ⟨q, hq, hqk⟩ := h.child j b k hk
    obtain rfl : p = q := Option.some_inj.mp (hp.symm.trans hq)
    rw [ih hqk hc, List.append_assoc, List.singleton_append]

/-! ## Inserting a code keeps the walks -/

/-- `u` has every child and every leaf of `t`. -/
structure Grows (t u : List TrieNode) : Prop where
  child : ∀ j b c, childOf t j b = some c → childOf u j b = some c
  leaf : ∀ j s, leafSym t j = some s → leafSym u j = some s

theorem Grows.refl (t : List TrieNode) : Grows t t := ⟨fun _ _ _ => id, fun _ _ => id⟩

theorem Grows.trans {t u v : List TrieNode} (h : Grows t u) (h' : Grows u v) : Grows t v :=
  ⟨fun j b c hc => h'.child j b c (h.child j b c hc), fun j s hs => h'.leaf j s (h.leaf j s hs)⟩

theorem Grows.descendFrom {t u : List TrieNode} (h : Grows t u) {j c : Nat} {bits : List Bool}
    (hc : descendFrom t j bits = some c) : descendFrom u j bits = some c := by
  induction bits generalizing j with
  | nil => exact hc
  | cons b rest ih =>
    rw [descendFrom_cons, Option.bind_eq_some_iff] at hc ⊢
    obtain ⟨k, hk, hc⟩ := hc
    exact ⟨k, h.child j b k hk, ih hc⟩

theorem Grows.reachesLeaf {t u : List TrieNode} (h : Grows t u) {j : Nat} {bits : List Bool} {s : Nat}
    (hs : ReachesLeaf t j bits s) : ReachesLeaf u j bits s := by
  obtain ⟨c, hc, hleaf⟩ := hs
  exact ⟨c, h.descendFrom hc, h.leaf c s hleaf⟩

theorem lt_length_of_childOf {t : List TrieNode} {j c : Nat} {b : Bool} (h : childOf t j b = some c) :
    j < t.length := by
  by_contra hj
  simp [childOf, List.getElem?_eq_none (Nat.le_of_not_lt hj)] at h

theorem lt_length_of_leafSym {t : List TrieNode} {j s : Nat} (h : leafSym t j = some s) : j < t.length := by
  by_contra hj
  simp [leafSym, List.getElem?_eq_none (Nat.le_of_not_lt hj)] at h

section
variable {t : List TrieNode} {j : Nat} {l r : Option Nat} {b : Bool} (hj : t[j]? = some (.inner l r))
include hj

/-- A node that takes a free place leaves every other child and every leaf. -/
theorem Grows.attach (hnone : childOf t j b = none) (m : TrieNode) : Grows t (attach t j b m) where
  child i c k hk := by
    have hi := lt_length_of_childOf hk
    rw [childOf_attach hj, if_neg (by omega), if_neg, hk]
    rintro ⟨rfl, rfl⟩
    rw [hnone] at hk
    cases hk
  leaf i s hs := by
    have hi := lt_length_of_leafSym hs
    rw [leafSym_attach hj, if_neg (by omega), hs]

/-- The new node is the child for its bit. -/
theorem childOf_attach_self (m : TrieNode) : childOf (attach t j b m) j b = some t.length := by
  have hlt : j < t.length := (List.getElem?_eq_some_iff.mp hj).1
  rw [childOf_attach hj, if_neg (by omega), if_pos ⟨rfl, rfl⟩]

end

section
variable {codes : Nat → List Bool} {syms done : List Nat} {t : List TrieNode} {paths : List (List Bool)}

/-- The inner loop of BuildTree (R232): inserting a new code of the set keeps the walks and makes the walk of the code. -/
theorem TrieInv.insert_reaches (hcode : PrefixCode codes syms) (hdone : done ⊆ syms) {s : Nat} (hs : s ∈ syms)
    (hnew : s ∉ done) {bits : List Bool} (hbits : bits ≠ []) (h : TrieInv codes syms done t paths) {j : Nat}
    {p : List Bool} (hp : paths[j]? = some p) (heq : p ++ bits = codes s) :
    Grows t (insertCode s bits j t) ∧ ReachesLeaf (insertCode s bits j t) j bits s := by
  induction bits generalizing j t paths p with
  | nil => exact absurd rfl hbits
  | cons b rest ih =>
    obtain ⟨l, r, hj⟩ := h.walk_inner hcode hdone hp hs hnew ⟨_, heq⟩
    cases rest with
    | nil =>
      refine ⟨.attach hj (h.walk_end hcode hdone hp hs hnew heq) _, t.length, ?_, ?_⟩
      · simp [insertCode_singleton, childOf_attach_self hj]
      · rw [insertCode_singleton, leafSym_attach hj, if_pos rfl]
        rfl
    | cons b' rest =>
      have heq' : p ++ [b] ++ b' :: rest = codes s := by simpa using heq
      rw [insertCode.eq_def]
      simp only
      cases hc : childOf t j b with
      | some c =>
        obtain ⟨q, hq, hqc⟩ := h.child j b c hc
        obtain rfl : p = q := Option.some_inj.mp (hp.symm.trans hq)
        obtain ⟨hgrows, hreach⟩ := ih (by simp) h hqc heq'
        exact ⟨hgrows, hreach.cons (hgrows.child j b c hc)⟩
      | none =>
        have hlen := congrArg List.length heq'
        have hle := hcode.length_le s hs
        simp only [List.length_append, List.length_cons] at hlen
        have hinv := h.attach_inner hp hj hc hs ⟨_, heq'⟩ (fun he => by simp [he] at heq') (by omega)
        obtain ⟨hgrows, hreach⟩ := ih (by simp) hinv (j := t.length) (by simp [← h.length]) heq'
        exact ⟨(Grows.attach hj hc _).trans hgrows, hreach.cons (hgrows.child j b _ (childOf_attach_self hj _))⟩

/-- BuildTree (R232): every code of the set leads to its leaf. -/
theorem TrieInv.foldl_reaches (hcode : PrefixCode codes syms) {todo : List Nat} (htodo : todo ⊆ syms)
    (hnodup : todo.Nodup) (hdone : done ⊆ syms) (hnew : ∀ s ∈ todo, s ∉ done) (h : TrieInv codes syms done t paths)
    (hreach : ∀ s ∈ done, ReachesLeaf t 0 (codes s) s) :
    ∀ s, s ∈ todo ∨ s ∈ done → ReachesLeaf (todo.foldl (fun t s => insertCode s (codes s) 0 t) t) 0 (codes s) s := by
  induction todo generalizing done t paths with
  | nil => simpa using hreach
  | cons s todo ih =>
    obtain ⟨hs, htodo⟩ := List.cons_subset.mp htodo
    obtain ⟨hmem, hnodup⟩ := List.nodup_cons.mp hnodup
    have hnil := hcode.ne_nil s hs
    obtain ⟨paths', h'⟩ := h.insert hcode hdone hs (hnew s (by simp)) hnil h.root rfl
    obtain ⟨hgrows, hself⟩ := h.insert_reaches hcode hdone hs (hnew s (by simp)) hnil h.root rfl
    have hreach' : ∀ u ∈ s :: done, ReachesLeaf (insertCode s (codes s) 0 t) 0 (codes u) u := by
      intro u hu
      rcases List.mem_cons.mp hu with rfl | hu
      · exact hself
      · exact hgrows.reachesLeaf (hreach u hu)
    intro u hu
    refine ih htodo hnodup (List.cons_subset.mpr ⟨hs, hdone⟩) (fun v hv => ?_) h' hreach' u ?_
    · exact List.not_mem_cons_of_ne_of_not_mem (fun he => hmem (he ▸ hv)) (hnew v (by simp [hv]))
    · rcases hu with hu | hu
      · exact (List.mem_cons.mp hu).elim (fun he => .inr (by simp [he])) .inl
      · exact .inr (by simp [hu])

end

/-! ## The decoder tree is the trie of the codes -/

/-- Every present symbol's code leads to its leaf (R232). -/
theorem FitsKraft.buildTrie_reaches {len : List Nat} (hlen : FitsKraft len) {s : Nat} (hs : s ∈ codedSyms len) :
    ReachesLeaf (buildTrie len (canonCodes len)) 0 (codeBits len (canonCodes len) s) s :=
  (TrieInv.root_only hlen.prefixCode hs).foldl_reaches hlen.prefixCode (List.Subset.refl _)
    (List.nodup_range.filter _) (List.nil_subset _) (by simp) (by simp) s (.inl hs)

/-- A tree with no place free has no inner node with a missing child. -/
theorem missing_eq_zero_of_missingCount {t : List TrieNode} {paths : List (List Bool)} (hlen : paths.length = t.length)
    (h : missingCount t paths = 0) : ∀ n ∈ t, n.missing = 0 := by
  intro n hn
  obtain ⟨i, hi, rfl⟩ := List.getElem_of_mem hn
  exact List.sum_eq_zero_iff.mp h _ (List.mem_iff_getElem.mpr ⟨i, by simp; omega, by simp⟩)

theorem isSome_of_missing_eq_zero {l r : Option Nat} (h : (TrieNode.inner l r).missing = 0) :
    l.isSome = true ∧ r.isSome = true := by
  simpa [TrieNode.missing, Option.isSome_iff_ne_none] using h

/-- A complete code's tree is full (R110). -/
theorem buildTrie_full_of_kraft {len : List Nat} (h256 : len.length = 256) (hle : ∀ l ∈ len, l ≤ 255)
    (hk : kraft len = 2 ^ 255) {l r : Option Nat} (hmem : TrieNode.inner l r ∈ buildTrie len (canonCodes len)) :
    l.isSome = true ∧ r.isSome = true := by
  have haccepted : AcceptedLengths len := ⟨h256, hle, .inr hk⟩
  obtain ⟨paths, h⟩ := haccepted.fitsKraft.buildTrie_inv haccepted.codedSyms_ne_nil
  have hshare := h.share
  have hmissing := missingCount_le_missingShare (buildTrie len (canonCodes len)) paths
  rw [takenShare_eq haccepted.fitsKraft h256, hk] at hshare
  exact isSome_of_missing_eq_zero (missing_eq_zero_of_missingCount h.length (by omega) _ hmem)

/-- The tree of one code of length 1: the code is a zero bit, so the root has no right child (R110, R232). -/
theorem buildTrie_right_of_single {len : List Nat} (h : AcceptedLengths len) (hone : presentLengths len = [1]) :
    childOf (buildTrie len (canonCodes len)) 0 true = none := by
  have hsyms := hone
  rw [presentLengths_eq_map h.length, List.map_eq_singleton_iff] at hsyms
  obtain ⟨s, hs, hlength⟩ := hsyms
  have hcode := h.fitsKraft.canonCodes_of_single hone (s := s) (by omega)
  rw [buildTrie, hs, List.foldl_cons, List.foldl_nil, codeBits, hlength, hcode]
  rfl

section
variable {len : List Nat} (h : AcceptedLengths len)
include h

/-- A bit string leads to the leaf of a symbol exactly when it is its code (R232). -/
theorem AcceptedLengths.reachesLeaf_iff {bits : List Bool} {s : Nat} :
    ReachesLeaf (buildTrie len (canonCodes len)) 0 bits s ↔
      0 < tableAt len s ∧ bits = codeBits len (canonCodes len) s := by
  constructor
  · rintro ⟨c, hc, hs⟩
    obtain ⟨paths, hinv⟩ := h.fitsKraft.buildTrie_inv h.codedSyms_ne_nil
    obtain ⟨hmem, hpath⟩ := hinv.leaf c s hs
    rw [hinv.descendFrom_path hinv.root hc, Option.some_inj] at hpath
    exact ⟨(mem_codedSyms.mp (List.mem_reverse.mp hmem)).2, hpath⟩
  · rintro ⟨hpos, rfl⟩
    have hlt := lt_length_of_tableAt_pos hpos
    exact h.fitsKraft.buildTrie_reaches (mem_codedSyms.mpr ⟨h.length ▸ hlt, hpos⟩)

theorem AcceptedLengths.presentLengths_length : (presentLengths len).length = (codedSyms len).length := by
  rw [presentLengths_eq_map h.length, List.length_map]

end

/-- A code-length set of two or more symbols fills the Kraft sum, and one of a single symbol is {1} (R103). -/
theorem legalLengths_complete {len : List Nat} (h : legalLengths len = true) :
    (2 ≤ (presentLengths len).length → kraft len = 2 ^ 255) ∧
    ((presentLengths len).length = 1 → presentLengths len = [1]) := by
  simp only [legalLengths, Bool.and_eq_true] at h
  obtain ⟨-, hcomplete⟩ := h
  unfold completeLengths at hcomplete
  split at hcomplete
  · next hone => exact ⟨fun htwo => by omega, fun _ => of_decide_eq_true hcomplete⟩
  · next hone => exact ⟨fun _ => of_decide_eq_true hcomplete, fun h => absurd h hone⟩

/-- Settles O54: the walks of the tree are the codes (`AcceptedLengths.reachesLeaf_iff`), and the two balances of `TrieInv`
give its size and leave no child missing when the code is complete. -/
theorem decoderTreeIsTheCodeTrie : Obligations.DecoderTreeIsTheCodeTrie := by
  rintro len hlegal tr rfl
  have h := AcceptedLengths.of_legalLengths hlegal
  obtain ⟨hmany, hsingle⟩ := legalLengths_complete hlegal
  refine ⟨fun bits s => reachesLeaf_zero_iff.symm.trans h.reachesLeaf_iff, fun htwo => ⟨?_, fun l r => ?_⟩, fun hone => ⟨?_, ?_⟩,
    h.buildTrie_length_le⟩
  · have hlength := buildTrie_length_of_kraft h.length h.le (hmany htwo)
    rw [h.presentLengths_length]
    omega
  · exact buildTrie_full_of_kraft h.length h.le (hmany htwo)
  · exact buildTrie_length_of_single h.length (hsingle hone)
  · exact buildTrie_right_of_single h (hsingle hone)

/-! ## The unpacker -/

/-- A walk emits at most `n` symbols and takes at least one bit for each; a success is exactly `n` symbols and every bit
consumed (R234, R235, R237). -/
theorem unpack_bounds (t : List TrieNode) (bits : List Bool) (j n : Nat) :
    (unpack t bits j n).emitted.length ≤ n ∧
    (unpack t bits j n).emitted.length + (unpack t bits j n).left ≤ bits.length ∧
    ((unpack t bits j n).stop = none → (unpack t bits j n).emitted.length = n ∧ (unpack t bits j n).left = 0) := by
  fun_induction unpack t bits j n with
  | case1 j bits => cases bits <;> simp
  | case2 j n => simp
  | case3 j b rest n hc => simp
  | case4 j b rest n c hc s hs ih =>
    obtain ⟨hn, hbits, hok⟩ := ih
    simp only [Walk.emit, List.length_cons]
    exact ⟨by omega, by omega, fun h => ⟨by rw [(hok h).1], (hok h).2⟩⟩
  | case5 j b rest n c hc hs ih =>
    obtain ⟨hn, hbits, hok⟩ := ih
    exact ⟨hn, hbits.trans (by simp), hok⟩

/-- A walk that has consumed all its bits at a success leaves any further bit over (R237). -/
theorem unpack_append_stop {t : List TrieNode} {bits : List Bool} {j n : Nat} (h : (unpack t bits j n).stop = none)
    {more : List Bool} (hmore : more ≠ []) : (unpack t (bits ++ more) j n).stop = some .trailingBits := by
  fun_induction unpack t bits j n with
  | case1 j bits =>
    obtain rfl : bits = [] := by simpa using h
    simp [unpack, hmore]
  | case2 j n => simp at h
  | case3 j b rest n hc => simp at h
  | case4 j b rest n c hc s hs ih => simpa [unpack, hc, hs, Walk.emit] using ih h
  | case5 j b rest n c hc hs ih => simpa [unpack, hc, hs] using ih h

theorem leafSym_of_childOf {t : List TrieNode} {j c : Nat} {b : Bool} (h : childOf t j b = some c) :
    leafSym t j = none := by
  unfold childOf at h
  unfold leafSym
  split at h
  · next l r hj => rw [hj]
  · cases h

/-- Bits that lead to a leaf emit its symbol, and the walk starts again at the root: no node before the leaf is one, since
it has a child (R234). -/
theorem unpack_of_reachesLeaf {t : List TrieNode} {j s : Nat} {bits : List Bool} (h : ReachesLeaf t j bits s)
    (hbits : bits ≠ []) (rest : List Bool) (k : Nat) :
    unpack t (bits ++ rest) j (k + 1) = (unpack t rest 0 k).emit s := by
  induction bits generalizing j with
  | nil => exact absurd rfl hbits
  | cons b bits ih =>
    obtain ⟨c, hc, hs⟩ := h
    rw [descendFrom_cons, Option.bind_eq_some_iff] at hc
    obtain ⟨d, hd, hc⟩ := hc
    rw [List.cons_append, unpack, hd]
    cases bits with
    | nil =>
      obtain rfl : d = c := Option.some_inj.mp hc
      simp [hs]
    | cons b' bits =>
      have hnext := hc
      rw [descendFrom_cons, Option.bind_eq_some_iff] at hnext
      obtain ⟨e, he, -⟩ := hnext
      simp only [leafSym_of_childOf he]
      exact ih ⟨c, hc, hs⟩ (by simp)

/-- The code bits of an input unpack to the input. -/
theorem unpack_streamBits {t : List TrieNode} {len code : List Nat} {inp : List Byte}
    (h : ∀ b ∈ inp, 0 < tableAt len b.toNat ∧ ReachesLeaf t 0 (codeBits len code b.toNat) b.toNat) :
    unpack t (streamBits len code inp) 0 inp.length = { emitted := inp, left := 0, stop := none } := by
  induction inp with
  | nil => rfl
  | cons b inp ih =>
    obtain ⟨⟨hpos, hreach⟩, hrest⟩ := List.forall_mem_cons.mp h
    have hne : codeBits len code b.toNat ≠ [] := List.ne_nil_of_length_pos (by simpa using hpos)
    rw [streamBits, List.flatMap_cons, List.length_cons, unpack_of_reachesLeaf hreach hne, ← streamBits, ih hrest, Walk.emit,
      BitVec.ofNat_toNat, BitVec.setWidth_eq]

theorem Walk.outcome_of_stop_ne_none {w : Walk} (h : w.stop ≠ none) : ∃ c, w.outcome = .error (.corrupt c) := by
  obtain ⟨c, hc⟩ := Option.ne_none_iff_exists'.mp h
  exact ⟨c, by rw [Walk.outcome, hc]⟩

/-! ## What the parser passes -/

theorem bodyBytes_length (x : List Byte) : (bodyBytes x).length = x.length - (10 + 2 * symCount x) := List.length_drop

/-- A container that reaches the unpacker holds its header, and its bits are those of the body before the padding (R104,
R225, R233). -/
theorem parse_stream_bits {x : List Byte} {n : Nat} {len : List Nat} {bits : List Bool}
    (h : parse x = .ok (.stream n len bits)) :
    10 + 2 * symCount x ≤ x.length ∧
      bits = (bytesBits (bodyBytes x)).take (8 * (bodyBytes x).length - padField x) := by
  unfold parse at h
  split_ifs at h with h8 htag h0 hempty h10 hsym
  · cases h
  refine ⟨by omega, ?_⟩
  unfold parseBody at h
  cases ht : parseTable (symEntries x) none zeroTable with
  | error c =>
    simp only [ht] at h
    split_ifs at h
  | ok t =>
    simp only [ht] at h
    split_ifs at h
    cases h
    rfl

/-- Settles O56: the bounds of a walk (`unpack_bounds`), and a header of at least 12 bytes before the body. -/
theorem decodeBound : Obligations.DecodeBound := by
  intro p x n len bits hp hx hparse
  obtain ⟨hemitted, hconsumed, hok⟩ := unpack_bounds (buildTrie len (canonCodes len)) bits 0 n
  obtain ⟨hheader, hbits⟩ := parse_stream_bits hparse
  obtain ⟨hibuf, -, -, -, -, hobuf, -⟩ := (Params.legal_iff p).mp hp
  have hbody := bodyBytes_length x
  have hlength : bits.length ≤ 8 * (bodyBytes x).length := by
    rw [hbits, List.length_take, bytesBits_length]
    exact Nat.min_le_right _ _
  unfold unpackStream
  refine ⟨hemitted, by omega, by omega, hlength, by omega, hobuf, fun hn hstop => ?_, hok⟩
  have := (hok hstop).1
  omega

/-! ## What the header determines -/

section
variable {x y : List Byte} {m : Nat} (h : x.take m = y.take m)
include h

theorem getD_of_take_eq {i : Nat} (hi : i < m) : x.getD i 0 = y.getD i 0 := by
  rw [List.getD_eq_getElem?_getD, List.getD_eq_getElem?_getD, ← List.getElem?_take_of_lt hi, h,
    List.getElem?_take_of_lt hi]

theorem take_of_take_eq {k : Nat} (hk : k ≤ m) : x.take k = y.take k := by
  have htake := congrArg (List.take k) h
  rwa [List.take_take, List.take_take, Nat.min_eq_left hk] at htake

theorem origLen_of_take_eq (hm : 8 ≤ m) : origLen x = origLen y := by
  have hbyte {i : Nat} (hi : i < 8) := getD_of_take_eq h (hi.trans_le hm)
  rw [origLen, origLen, hbyte (by decide : 4 < 8), hbyte (by decide : 5 < 8), hbyte (by decide : 6 < 8),
    hbyte (by decide : 7 < 8)]

theorem padField_of_take_eq (hm : 9 ≤ m) : padField x = padField y := by
  rw [padField, padField, getD_of_take_eq h hm]

theorem symCount_of_take_eq (hm : 10 ≤ m) : symCount x = symCount y := by
  rw [symCount, symCount, getD_of_take_eq h hm]

theorem symEntries_of_take_eq (hm : 10 + 2 * symCount x ≤ m) : symEntries x = symEntries y := by
  rw [symEntries, symEntries, ← symCount_of_take_eq h (by omega)]
  refine List.map_congr_left fun i hi => ?_
  rw [List.mem_range] at hi
  rw [getD_of_take_eq h (by omega), getD_of_take_eq h (by omega)]

end

/-- Settles O57: the checks read the length and the header's bytes, and the unpacker the bits before the padding. -/
theorem padBitsIgnored : Obligations.PadBitsIgnored := by
  intro x y hlength hheader hbits
  have htag : x.take 4 = y.take 4 := take_of_take_eq hheader (by omega)
  have horig : origLen x = origLen y := origLen_of_take_eq hheader (by omega)
  have hpad : padField x = padField y := padField_of_take_eq hheader (by omega)
  have hcount : symCount x = symCount y := symCount_of_take_eq hheader (by omega)
  have hentries : symEntries x = symEntries y := symEntries_of_take_eq hheader (Nat.le_refl _)
  have hbodylen : (bodyBytes x).length = (bodyBytes y).length := by
    rw [bodyBytes_length, bodyBytes_length, hlength, hcount]
  have hbody : parseBody x = parseBody y := by
    unfold parseBody
    rw [hbits, hpad, hentries, hcount, hbodylen, horig]
  have hparse : parse x = parse y := by
    unfold parse
    rw [hlength, htag, horig, hcount, hbody]
  rw [huffDecode, huffDecode, hparse]

/-! ## The fields of a container -/

theorem padCount_le (t : Nat) : padCount t ≤ 7 := by
  unfold padCount
  omega

section
variable (n : Nat) (freq len syms : List Nat) (body : List Byte)

theorem take_tag_containerHeader : (containerHeader n freq len syms ++ body).take 4 = tag := rfl

/-- Four big-endian bytes hold a number below 2^32 (R13, R99). -/
theorem origLen_containerHeader (hn : n < 2 ^ 32) : origLen (containerHeader n freq len syms ++ body) = n := by
  show (BitVec.ofNat 8 (n / 2 ^ 24)).toNat * 2 ^ 24 + (BitVec.ofNat 8 (n / 2 ^ 16)).toNat * 2 ^ 16 +
    (BitVec.ofNat 8 (n / 2 ^ 8)).toNat * 2 ^ 8 + (BitVec.ofNat 8 n).toNat = n
  simp only [BitVec.toNat_ofNat]
  omega

theorem padField_containerHeader :
    padField (containerHeader n freq len syms ++ body) = padCount (totalBits freq len syms) := by
  have hpad := padCount_le (totalBits freq len syms)
  exact Nat.mod_eq_of_lt (by omega)

/-- SCNT holds S - 1 for S from 1 to 256 (R101). -/
theorem symCount_containerHeader (hpos : 0 < syms.length) (hle : syms.length ≤ 256) :
    symCount (containerHeader n freq len syms ++ body) = syms.length := by
  show (BitVec.ofNat 8 (syms.length - 1)).toNat + 1 = syms.length
  rw [BitVec.toNat_ofNat]
  omega

theorem bodyBytes_containerHeader (hpos : 0 < syms.length) (hle : syms.length ≤ 256) :
    bodyBytes (containerHeader n freq len syms ++ body) = body := by
  rw [bodyBytes, symCount_containerHeader n freq len syms body hpos hle]
  exact List.drop_left' (containerHeader_length n freq len syms)

theorem getD_containerHeader (i : Nat) :
    (containerHeader n freq len syms ++ body).getD (10 + i) 0 = (symTab len syms ++ body).getD i 0 := by
  rw [Nat.add_comm]
  rfl

/-- The two bytes of entry `i` of a symbol table (R102). -/
theorem getD_symTab {i : Nat} (hi : i < syms.length) :
    (symTab len syms ++ body).getD (2 * i) 0 = BitVec.ofNat 8 syms[i] ∧
    (symTab len syms ++ body).getD (2 * i + 1) 0 = BitVec.ofNat 8 (tableAt len syms[i]) := by
  induction syms generalizing i with
  | nil => simp at hi
  | cons s syms ih =>
    cases i with
    | zero => exact ⟨rfl, rfl⟩
    | succ i => exact ih (by simpa using hi)

/-- The decoder reads the symbol table the encoder wrote (R102, R183). -/
theorem symEntries_containerHeader (hpos : 0 < syms.length) (hle : syms.length ≤ 256) (hsyms : ∀ s ∈ syms, s < 256)
    (hlen : ∀ l ∈ len, l ≤ 255) :
    symEntries (containerHeader n freq len syms ++ body) = syms.map fun s => (s, tableAt len s) := by
  rw [symEntries, symCount_containerHeader n freq len syms body hpos hle]
  refine List.ext_getElem (by simp) fun i hi _ => ?_
  have hi' : i < syms.length := by simpa using hi
  obtain ⟨hsym, hl⟩ := getD_symTab len syms body hi'
  have hlt := hsyms _ (List.getElem_mem hi')
  have hle := tableAt_le_of_forall_mem hlen syms[i]
  rw [List.getElem_map, List.getElem_range, List.getElem_map, show 11 + 2 * i = 10 + (2 * i + 1) by omega,
    getD_containerHeader, getD_containerHeader, hsym, hl, BitVec.toNat_ofNat, BitVec.toNat_ofNat,
    Nat.mod_eq_of_lt hlt, Nat.mod_eq_of_lt (Nat.lt_succ_of_le hle)]

end

/-! ## The symbol table -/

/-- ParseTable accepts positive lengths of rising symbols, and writes each (R227, R228). -/
theorem parseTable_ascending {entries : List (Nat × Nat)} (hpos : ∀ e ∈ entries, e.2 ≠ 0)
    (hasc : entries.Pairwise fun d e => d.1 < e.1) {prev : Option Nat} (hprev : ∀ q ∈ prev, ∀ e ∈ entries, q < e.1)
    (t : List Nat) : parseTable entries prev t = .ok (entries.foldl (fun t p => t.set p.1 p.2) t) := by
  induction entries generalizing prev t with
  | nil => rfl
  | cons e rest ih =>
    obtain ⟨sym, l⟩ := e
    obtain ⟨hfirst, hasc⟩ := List.pairwise_cons.mp hasc
    obtain ⟨hl, hpos⟩ := List.forall_mem_cons.mp hpos
    have horder : ¬ prev.any (fun q => decide (sym ≤ q)) = true := by
      cases prev with
      | none => simp
      | some q => simpa using hprev q rfl (sym, l) (by simp)
    rw [parseTable, if_neg hl, if_neg horder, List.foldl_cons]
    refine ih hpos hasc (fun q hq e he => ?_) _
    obtain rfl : sym = q := by simpa using hq
    exact hfirst e he

/-- A table of 256 lengths is made again from its present symbols' entries. -/
theorem lenTable_present {len syms : List Nat} (h256 : len.length = 256) (hnodup : syms.Nodup)
    (hlt : ∀ s ∈ syms, s < 256) (hsyms : ∀ s, s ∈ syms ↔ 0 < tableAt len s) :
    lenTable (syms.map fun s => (s, tableAt len s)) = len := by
  have hfst : (syms.map fun s => (s, tableAt len s)).map Prod.fst = syms := by simp [Function.comp_def]
  refine List.ext_getElem (by rw [lenTable_length, h256]) fun s hs hs' => ?_
  rw [← tableAt_eq_getElem hs, ← tableAt_eq_getElem hs']
  by_cases hmem : s ∈ syms
  · exact tableAt_lenTable (p := (s, tableAt len s)) (by rwa [hfst]) (by rwa [hfst]) (List.mem_map_of_mem hmem)
  · have hzero : tableAt len s = 0 := Nat.eq_zero_of_not_pos fun hpos => hmem ((hsyms s).mpr hpos)
    rw [lenTable, tableAt_foldl_set_of_notMem _ (by rwa [hfst]), tableAt_zeroTable, hzero]

/-! ## The container of an input -/

/-- The header of an input's container (R183). -/
def inputHeader (inp : List Byte) : List Byte :=
  containerHeader inp.length (freqOf inp) (inputLengths inp) (inputSyms inp)

/-- The code bits of an input (R182). -/
def inputBits (inp : List Byte) : List Bool := streamBits (inputLengths inp) (inputCodes inp) inp

theorem origLen_inputHeader {inp : List Byte} (hlt : inp.length < 2 ^ 32) (body : List Byte) :
    origLen (inputHeader inp ++ body) = inp.length := origLen_containerHeader _ _ _ _ _ hlt

section
variable {inp : List Byte} (hne : inp ≠ [])
include hne

theorem huffEncode_eq_append : huffEncode inp = inputHeader inp ++ packBits (inputBits inp) 0 0 :=
  huffEncode_of_ne_nil hne

theorem symCount_inputHeader (body : List Byte) : symCount (inputHeader inp ++ body) = (inputSyms inp).length :=
  symCount_containerHeader _ _ _ _ _ (inputSyms_length_pos hne) (inputSyms_length_le inp)

theorem completeLengths_input : completeLengths (inputLengths inp) (inputSyms inp).length = true := by
  have hlegal := legalLengths_inputLengths hne
  simp only [legalLengths, Bool.and_eq_true] at hlegal
  obtain ⟨-, hcomplete⟩ := hlegal
  rwa [presentLengths_inputLengths, List.length_map] at hcomplete

/-- The checks after the header's length pass on a header the encoder wrote, whatever the body; only the padding may need
more bits than there are (R226 to R230). -/
theorem parseBody_inputHeader (hlt : inp.length < 2 ^ 32) (body : List Byte) :
    parseBody (inputHeader inp ++ body) =
      if 8 * body.length < padCount (inputBits inp).length then .error (.corrupt .noBits)
      else .ok (.stream inp.length (inputLengths inp)
        ((bytesBits body).take (8 * body.length - padCount (inputBits inp).length))) := by
  have hpos := inputSyms_length_pos hne
  have hle := inputSyms_length_le inp
  have hfits := inputLengths_fitsKraft inp
  have htable : parseTable (symEntries (inputHeader inp ++ body)) none zeroTable = .ok (inputLengths inp) := by
    rw [inputHeader, symEntries_containerHeader _ _ _ _ _ hpos hle (fun _ => inputSyms_lt) hfits.le,
      parseTable_ascending _ _ (by simp), ← lenTable,
      lenTable_present (inputLengths_length inp) (inputSyms_nodup inp) (fun _ => inputSyms_lt)
        fun _ => mem_inputSyms_iff_length_pos]
    · intro e he
      obtain ⟨s, hs, rfl⟩ := List.mem_map.mp he
      exact (mem_inputSyms_iff_length_pos.mp hs).ne'
    · rw [List.pairwise_map]
      exact List.pairwise_lt_range.filter _
  have hpad : padField (inputHeader inp ++ body) = padCount (inputBits inp).length := by
    rw [inputBits, streamBits_length]
    exact padField_containerHeader _ _ _ _ _
  have hpad7 := padCount_le (inputBits inp).length
  have hbody : bodyBytes (inputHeader inp ++ body) = body := bodyBytes_containerHeader _ _ _ _ _ hpos hle
  unfold parseBody
  rw [hpad, if_neg (by omega), hbody, origLen_inputHeader hlt, symCount_inputHeader hne]
  simp only [htable, completeLengths_input hne, Bool.true_eq_false, if_false]

theorem parse_inputHeader (hlt : inp.length < 2 ^ 32) (body : List Byte) :
    parse (inputHeader inp ++ body) = parseBody (inputHeader inp ++ body) := by
  have htag : (inputHeader inp ++ body).take 4 = tag := take_tag_containerHeader _ _ _ _ _
  have hn := origLen_inputHeader hlt body
  have hlength : (inputHeader inp ++ body).length = 10 + 2 * (inputSyms inp).length + body.length := by
    rw [List.length_append, inputHeader, containerHeader_length]
  have hpos := List.length_pos_iff.mpr hne
  unfold parse
  rw [symCount_inputHeader hne, if_neg (by omega), if_neg (not_not.mpr htag),
    if_neg (by omega), if_neg (by omega), if_neg (by omega)]

end

/-- Unpacking the code bits of an input gives the input (R241). -/
theorem unpackStream_inputBits (inp : List Byte) :
    unpackStream inp.length (inputLengths inp) (inputBits inp) = { emitted := inp, left := 0, stop := none } := by
  refine unpack_streamBits fun b hb => ?_
  have hpos := mem_inputSyms_iff_length_pos.mp (mem_inputSyms.mpr (List.mem_map_of_mem hb))
  exact ⟨hpos, (inputLengths_fitsKraft inp).buildTrie_reaches (mem_codedSyms.mpr ⟨b.isLt, hpos⟩)⟩

/-- Settles O59: the parser reads back what the encoder wrote, and the bits unpack to the input. -/
theorem roundTrip : Obligations.RoundTrip := by
  intro inp hlt
  rcases eq_or_ne inp [] with rfl | hne
  · decide
  · obtain ⟨hlength, -, hbits, -⟩ := packedBodyIsTheBitString (inputBits inp)
    have hparse : parse (huffEncode inp) = .ok (.stream inp.length (inputLengths inp) (inputBits inp)) := by
      rw [huffEncode_eq_append hne, parse_inputHeader hne hlt, parseBody_inputHeader hne hlt, if_neg (by omega), hbits,
        hlength, Nat.add_sub_cancel, List.take_left]
    rw [huffDecode, hparse]
    show (unpackStream inp.length (inputLengths inp) (inputBits inp)).outcome = .ok inp
    rw [unpackStream_inputBits]
    rfl

/-! ## The round trip on the block -/

/-- An idle block that accepts a command completes it at the engine's next turn (R142, R143, R146). -/
theorem engineTurn_of_exec {s a : State} (hr : s.rstN = true) (hb : s.status.busy = false) {i : Instr} (hi : i ≠ .nop)
    (h : exec i s = .next a) :
    a.engineTurn = a.complete ∧ a.input = s.input ∧ a.engine.phase.isEncoder = decide (i = .compress) := by
  rw [exec_idle hb i] at h
  cases h
  cases i with
  | nop => exact absurd rfl hi
  | compress | decompress => exact ⟨State.engineTurn_busy hr rfl, rfl, rfl⟩

/-- Settles O60: both completions publish their function's value, and Decode undoes Encode (`roundTrip`). -/
theorem blockRoundTrip : Obligations.BlockRoundTrip := by
  intro s u a b hs _ hsr hur hsb hub ha hb hinput
  obtain ⟨haturn, hain, hphase⟩ := engineTurn_of_exec hsr hsb (by decide) ha
  obtain ⟨hbturn, hbin, hphase'⟩ := engineTurn_of_exec hur hub (by decide) hb
  have hsize := hs.input_length_le
  have hcontainer := huffEncode_length_le s.input
  rw [haturn, State.complete_encoder hphase, State.publish_output_of_lt _ _ _ (by rw [hain]; omega), hain] at hinput
  have hdecode : huffDecode b.input = .ok s.input := by rw [hbin, hinput, roundTrip s.input (by omega)]
  obtain ⟨r, out, heq, hends⟩ := State.complete_decoder hphase'
  simp only [DecodeEnds, hdecode] at hends
  obtain ⟨rfl, rfl⟩ : s.input = out ∧ r = .ok := by simpa using hends
  rw [hbturn, heq]
  refine ⟨rfl, State.publish_output_of_lt _ _ _ (by omega), ?_⟩
  rw [State.publish_outLen, State.input_length, BitVec.ofNat_toNat, BitVec.setWidth_eq]

/-! ## Truncated containers -/

/-- A wrong length or tag is a ContainerFormatError (R221, R222, R224, R225). -/
theorem huffDecode_containerFormat {x : List Byte}
    (h : x.length < 8 ∨ x.take 4 ≠ tag ∨ (origLen x ≠ 0 ∧ (x.length < 10 ∨ x.length < 10 + 2 * symCount x))) :
    ∃ c, huffDecode x = .error (.containerFormat c) := by
  suffices hparse : ∃ c, parse x = .error (.containerFormat c) by
    obtain ⟨c, hc⟩ := hparse
    exact ⟨c, by rw [huffDecode, hc]⟩
  unfold parse
  by_cases h8 : x.length < 8
  · exact ⟨_, if_pos h8⟩
  rw [if_neg h8]
  by_cases htag : x.take 4 ≠ tag
  · exact ⟨_, if_pos htag⟩
  obtain ⟨hn, hshort⟩ := (h.resolve_left h8).resolve_left htag
  rw [if_neg htag, if_neg hn]
  by_cases h10 : x.length < 10
  · exact ⟨_, if_pos h10⟩
  · exact ⟨_, by rw [if_neg h10, if_pos (hshort.resolve_left h10)]⟩

theorem bytesBits_append (y z : List Byte) : bytesBits (y ++ z) = bytesBits y ++ bytesBits z := List.flatMap_append

theorem bytesBits_take (y : List Byte) (k : Nat) : bytesBits (y.take k) = (bytesBits y).take (8 * k) := by
  rcases Nat.lt_or_ge k y.length with hk | hk
  · conv_rhs => rw [← List.take_append_drop k y, bytesBits_append]
    rw [List.take_left' (by simp; omega)]
  · rw [List.take_of_length_le hk, List.take_of_length_le (by simp; omega)]

section
variable {inp : List Byte} (hne : inp ≠ []) (hlt : inp.length < 2 ^ 32)
include hne hlt

/-- A container cut in its body has too few bits for the padding, or its walk stops: one that succeeded would leave the
bits that were cut off (R230, R235). -/
theorem huffDecode_take_body {k : Nat} (hk : 10 + 2 * (inputSyms inp).length ≤ k) (hcut : k < (huffEncode inp).length) :
    ∃ c, huffDecode ((huffEncode inp).take k) = .error (.corrupt c) := by
  obtain ⟨hlength, -, hbits, -⟩ := packedBodyIsTheBitString (inputBits inp)
  have hheader : (inputHeader inp).length = 10 + 2 * (inputSyms inp).length := containerHeader_length _ _ _ _
  rw [huffEncode_eq_append hne, List.length_append, hheader] at hcut
  obtain ⟨m, rfl⟩ := Nat.exists_eq_add_of_le hk
  have hbody : ((packBits (inputBits inp) 0 0).take m).length = m := by rw [List.length_take]; omega
  rw [huffEncode_eq_append hne, ← hheader, List.take_length_add_append, huffDecode, parse_inputHeader hne hlt,
    parseBody_inputHeader hne hlt, hbody]
  by_cases hpad : 8 * m < padCount (inputBits inp).length
  · rw [if_pos hpad]
    exact ⟨_, rfl⟩
  · have htake : (bytesBits ((packBits (inputBits inp) 0 0).take m)).take (8 * m - padCount (inputBits inp).length) =
        (inputBits inp).take (8 * m - padCount (inputBits inp).length) := by
      rw [bytesBits_take, List.take_take, Nat.min_eq_left (Nat.sub_le _ _), hbits, List.take_append_of_le_length (by omega)]
    rw [if_neg hpad, htake]
    refine Walk.outcome_of_stop_ne_none fun hstop => ?_
    have hmore := unpack_append_stop hstop (more := (inputBits inp).drop (8 * m - padCount (inputBits inp).length))
      (List.ne_nil_of_length_pos (by rw [List.length_drop]; omega))
    rw [List.take_append_drop, ← unpackStream, unpackStream_inputBits] at hmore
    cases hmore

/-- A container cut in its header is too short for its own fields (R221, R224, R225). -/
theorem huffDecode_take_header {k : Nat} (hk : k < 10 + 2 * (inputSyms inp).length) :
    ∃ c, huffDecode ((huffEncode inp).take k) = .error (.containerFormat c) := by
  have hle : k ≤ (huffEncode inp).length := by rw [huffEncode_length hne]; omega
  have hlength : ((huffEncode inp).take k).length = k := by rw [List.length_take, Nat.min_eq_left hle]
  have hsame : ((huffEncode inp).take k).take k = (huffEncode inp).take k := by rw [List.take_take, Nat.min_self]
  refine huffDecode_containerFormat ?_
  rw [hlength]
  rcases Nat.lt_or_ge k 8 with h8 | h8
  · exact .inl h8
  refine .inr (.inr ⟨?_, ?_⟩)
  · rw [origLen_of_take_eq hsame h8, huffEncode_eq_append hne, origLen_inputHeader hlt]
    exact (List.length_pos_iff.mpr hne).ne'
  · rcases Nat.lt_or_ge k 10 with h10 | h10
    · exact .inl h10
    · rw [symCount_of_take_eq hsame h10, huffEncode_eq_append hne, symCount_inputHeader hne]
      exact .inr hk

end

/-- Settles O58, by where the cut lies: in the body (`huffDecode_take_body`) or in the header (`huffDecode_take_header`);
the rest is the checks of length and tag. -/
theorem truncationRejected : Obligations.TruncationRejected := by
  refine ⟨fun p inp hp hle => ⟨fun hne => ?_, ?_⟩, fun x hx => huffDecode_containerFormat (hx.imp_right .inl)⟩
  · obtain ⟨-, hsize, -⟩ := (Params.legal_iff p).mp hp
    have hlt : inp.length < 2 ^ 32 := by omega
    exact ⟨fun k => huffDecode_take_body hne hlt, fun k => huffDecode_take_header hne hlt⟩
  · rintro rfl k hk
    refine huffDecode_containerFormat (.inl ?_)
    rw [List.length_take]
    exact (Nat.min_le_left _ _).trans_lt hk

end Sys2Proof.Machine

/-! PROOF. The statements of 60_exceptions.md: which class of error Decode reports, and what an error does to the block. Three
cases cover every input: a format error; else a container that passes the CorruptStream checks; else one that does not. Each
fixes the class, and the classes exclude each other. -/

namespace Sys2Proof.Machine

/-! ## The checks of a container -/

/-- The symbol table is accepted exactly when its lengths are positive and its symbols rise, also from the symbol before its
first entry, and then each entry is written (R227, R228). -/
theorem parseTable_eq_ok_iff {entries : List (Nat × Nat)} {prev : Option Nat} {t u : List Nat} :
    parseTable entries prev t = .ok u ↔
      (∀ e ∈ entries, e.2 ≠ 0) ∧ (entries.Pairwise fun d e => d.1 < e.1) ∧ (∀ q ∈ prev, ∀ e ∈ entries, q < e.1) ∧
        entries.foldl (fun t p => t.set p.1 p.2) t = u := by
  refine ⟨fun h => ?_, fun ⟨hpos, hasc, hprev, hu⟩ => hu ▸ parseTable_ascending hpos hasc hprev t⟩
  induction entries generalizing prev t with
  | nil =>
    cases h
    simp
  | cons e rest ih =>
    obtain ⟨sym, l⟩ := e
    rw [parseTable] at h
    split_ifs at h with hl horder
    obtain ⟨hpos, hasc, hfirst, hu⟩ := ih h
    have hfirst : ∀ e ∈ rest, sym < e.1 := hfirst sym rfl
    have hprev : ∀ q ∈ prev, q < sym := by
      rintro q rfl
      simpa using horder
    refine ⟨List.forall_mem_cons.mpr ⟨hl, hpos⟩, List.pairwise_cons.mpr ⟨hfirst, hasc⟩, fun q hq => ?_, hu⟩
    exact List.forall_mem_cons.mpr ⟨hprev q hq, fun e he => (hprev q hq).trans (hfirst e he)⟩

/-- The bits of the bitstream: the body's bits before the padding (R104, R233). -/
def codeStream (x : List Byte) : List Bool := (bytesBits (bodyBytes x)).take (8 * (bodyBytes x).length - padField x)

/-- The checks from PAD to the body's length (R226 to R230). -/
def BodyChecks (x : List Byte) : Prop :=
  padField x ≤ 7 ∧ (∀ e ∈ symEntries x, e.2 ≠ 0) ∧ ((symEntries x).Pairwise fun d e => d.1 < e.1) ∧
    completeLengths (lenTable (symEntries x)) (symCount x) = true ∧ padField x ≤ 8 * (bodyBytes x).length

theorem parseBody_of_checks {x : List Byte} (h : BodyChecks x) :
    parseBody x = .ok (.stream (origLen x) (lenTable (symEntries x)) (codeStream x)) := by
  obtain ⟨hpad, hpos, hasc, hcomplete, hbits⟩ := h
  have htable : parseTable (symEntries x) none zeroTable = .ok (lenTable (symEntries x)) :=
    parseTable_eq_ok_iff.mpr ⟨hpos, hasc, by simp, rfl⟩
  unfold parseBody
  rw [if_neg (Nat.not_lt.mpr hpad)]
  simp only [htable]
  rw [if_neg (by simp [hcomplete]), if_neg (Nat.not_lt.mpr hbits), codeStream]

theorem parseBody_of_not_checks {x : List Byte} (h : ¬ BodyChecks x) : ∃ c, parseBody x = .error (.corrupt c) := by
  unfold parseBody
  by_cases hpad : 7 < padField x
  · exact ⟨_, if_pos hpad⟩
  rw [if_neg hpad]
  cases htable : parseTable (symEntries x) none zeroTable with
  | error c => exact ⟨c, rfl⟩
  | ok len =>
    obtain ⟨hpos, hasc, -, rfl⟩ := parseTable_eq_ok_iff.mp htable
    by_cases hcomplete : completeLengths (lenTable (symEntries x)) (symCount x) = false
    · exact ⟨_, if_pos hcomplete⟩
    by_cases hbits : 8 * (bodyBytes x).length < padField x
    · exact ⟨_, (if_neg hcomplete).trans (if_pos hbits)⟩
    exact absurd ⟨Nat.not_lt.mp hpad, hpos, hasc, eq_true_of_ne_false hcomplete, Nat.not_lt.mp hbits⟩ h

/-! ## The class of an error -/

/-- The condition of a ContainerFormatError (R271). -/
def FormatError (x : List Byte) : Prop :=
  x.length < 8 ∨ x.take 4 ≠ tag ∨ (1 ≤ origLen x ∧ (x.length < 10 ∨ x.length < 10 + 2 * symCount x))

/-- Every check of a CorruptStream passes, the unpacker's included (R272). -/
def StreamChecks (x : List Byte) : Prop :=
  (origLen x = 0 → x.length = 8) ∧
    (1 ≤ origLen x →
      BodyChecks x ∧ (unpackStream (origLen x) (lenTable (symEntries x)) (codeStream x)).stop = none)

/-- A container of a whole header goes on to the check of R223 or to the body's. -/
theorem parse_of_not_formatError {x : List Byte} (h : ¬ FormatError x) :
    parse x = if origLen x = 0 then if x.length ≠ 8 then .error (.corrupt .trailingData) else .ok .empty
      else parseBody x := by
  simp only [FormatError, not_or, not_and] at h
  obtain ⟨h8, htag, hn⟩ := h
  rw [parse, if_neg h8, if_neg htag]
  split
  · rfl
  · next h0 =>
    obtain ⟨h10, hsym⟩ := hn (Nat.pos_of_ne_zero h0)
    rw [if_neg h10, if_neg hsym]

theorem Walk.outcome_of_stop_none {w : Walk} (h : w.stop = none) : w.outcome = .ok w.emitted := by rw [Walk.outcome, h]

theorem huffDecode_ok_of_checks {x : List Byte} (hf : ¬ FormatError x) (h : StreamChecks x) :
    ∃ out, huffDecode x = .ok out := by
  obtain ⟨hempty, hstream⟩ := h
  rw [huffDecode, parse_of_not_formatError hf]
  rcases Nat.eq_zero_or_pos (origLen x) with h0 | hpos
  · exact ⟨[], by rw [if_pos h0, if_neg (not_not.mpr (hempty h0))]⟩
  · obtain ⟨hbody, hstop⟩ := hstream hpos
    rw [if_neg hpos.ne', parseBody_of_checks hbody]
    exact ⟨_, Walk.outcome_of_stop_none hstop⟩

theorem huffDecode_corrupt_of_not_checks {x : List Byte} (hf : ¬ FormatError x) (h : ¬ StreamChecks x) :
    ∃ c, huffDecode x = .error (.corrupt c) := by
  rw [huffDecode, parse_of_not_formatError hf]
  rcases Nat.eq_zero_or_pos (origLen x) with h0 | hpos
  · have hlength : x.length ≠ 8 := fun h8 => h ⟨fun _ => h8, fun hpos => absurd h0 (Nat.ne_of_gt hpos)⟩
    exact ⟨_, by rw [if_pos h0, if_pos hlength]⟩
  rw [if_neg hpos.ne']
  by_cases hbody : BodyChecks x
  · rw [parseBody_of_checks hbody]
    exact Walk.outcome_of_stop_ne_none fun hstop => h ⟨fun h0 => absurd h0 hpos.ne', fun _ => ⟨hbody, hstop⟩⟩
  · obtain ⟨c, hc⟩ := parseBody_of_not_checks hbody
    exact ⟨c, by rw [hc]⟩

/-- The three classes of an outcome, exclusive and by their conditions (R277). -/
theorem huffDecode_class (x : List Byte) :
    ((∃ c, huffDecode x = .error (.containerFormat c)) ↔ FormatError x) ∧
    ((∃ out, huffDecode x = .ok out) ↔ ¬ FormatError x ∧ StreamChecks x) ∧
    ((∃ c, huffDecode x = .error (.corrupt c)) ↔ ¬ FormatError x ∧ ¬ StreamChecks x) := by
  by_cases hf : FormatError x
  · obtain ⟨c, hc⟩ := huffDecode_containerFormat (hf.imp_right (.imp_right (.imp_left Nat.ne_of_gt)))
    simp [hc, hf]
  by_cases h : StreamChecks x
  · obtain ⟨out, hout⟩ := huffDecode_ok_of_checks hf h
    simp [hout, hf, h]
  · obtain ⟨c, hc⟩ := huffDecode_corrupt_of_not_checks hf h
    simp [hc, hf, h]

/-- Settles O55: the classes of `huffDecode_class`, with the checks written out. -/
theorem decodeErrorClass : Obligations.DecodeErrorClass := by
  intro x
  obtain ⟨hformat, hok, hcorrupt⟩ := huffDecode_class x
  refine ⟨hformat, ?_, ?_⟩
  · rw [hok, hformat]
    simp only [StreamChecks, BodyChecks, codeStream, and_assoc]
  · rw [hcorrupt, hok, hformat]
    tauto

/-! ## What an error does to the block -/

theorem State.complete_of_decode_error {s : State} {e : DecodeFault} (hphase : s.engine.phase.isEncoder = false)
    (he : huffDecode s.input = .error e) : s.complete = s.publish e.result [] (s.engine.runDecode s.input) := by
  rw [State.complete, if_neg (by simp [hphase]), State.completeDecode, he]

/-- STATUS after a ContainerFormatError: RESULT 2 and DONE (R95). -/
theorem Status.word_completed_containerFormat (c : FormatCause) :
    (Status.completed (DecodeFault.containerFormat c).result).word = 0x00000022#32 := by
  rw [DecodeFault.result]
  decide

/-- STATUS after a CorruptStream: RESULT 3 and DONE (R95). -/
theorem Status.word_completed_corrupt (c : CorruptCause) :
    (Status.completed (DecodeFault.corrupt c).result).word = 0x00000032#32 := by
  rw [DecodeFault.result]
  decide

/-- Settles O15: the turn publishes the error's RESULT with no byte of output. -/
theorem errorEndsTheCommand : Obligations.ErrorEndsTheCommand := by
  intro s e hr hb hphase he
  have hdecoder : s.engine.phase.isEncoder = false := by rw [hphase, Phase.isEncoder]
  rw [State.engineTurn_busy hr hb, State.complete_of_decode_error hdecoder he]
  refine ⟨rfl, rfl, rfl, rfl, fun j => by simp, Nat.lt_succ_self _, fun c hc => ?_, fun c hc => ?_, rfl, rfl, rfl⟩
  · rw [hc, State.publish_status, Status.word_completed_containerFormat]
  · rw [hc, State.publish_status, Status.word_completed_corrupt]

end Sys2Proof.Machine

/-! PROOF. The statements of 70_reset_and_hazards.md: a reset cancels a running command, since the engine stands still while
rst_n is low; without a reset the command completes at the first engine turn, and only host transactions come before it. -/

namespace Sys2Proof.Machine

/-! ## A reset cancels -/

/-- A turn of the engine while rst_n is low passes without effect (R322). -/
theorem step_engine_inReset {s : State} {rest : List Event} (henv : s.env = .engine :: rest) (hr : s.rstN = false) :
    step s = .next (s.setEnv rest) := by
  rw [step_engine s rest henv, State.engineTurn_idle (s := s.setEnv rest) (.inl hr)]

/-- So does any number of them. -/
theorem stepN_engine_inReset {s : State} {n : Nat} {rest : List Event} (henv : s.env = List.replicate n .engine ++ rest)
    (hr : s.rstN = false) : stepN n s = .next (s.setEnv rest) := by
  induction n generalizing s with
  | zero =>
    obtain rfl : s.env = rest := henv
    rw [State.setEnv_env_self, stepN]
  | succ n ih =>
    have hstep : stepN 1 s = .next (s.setEnv (List.replicate n .engine ++ rest)) :=
      (stepN_one s).trans (step_engine_inReset henv hr)
    rw [Nat.add_comm, stepN_add hstep, ih (State.setEnv_env _ _) hr, State.setEnv_setEnv]

/-- The low level only moves the pin (R310). -/
theorem step_assert {s : State} {rest : List Event} (henv : s.env = .rst false :: rest) :
    step s = .next ((s.setEnv rest).setRstN false) :=
  step_rst s false rest henv

/-- The release of rst_n is the reset (R310). -/
theorem step_release {s : State} {rest : List Event} (henv : s.env = .rst true :: rest) (hr : s.rstN = false) :
    step s = .next (State.afterReset s.params (s.obufDraw + 1) rest) := by
  rw [step_rst s true rest henv]
  simp [State.driveReset, hr]

/-- The reset of a state whose pin is low, after any number of engine turns (R311, R322). -/
theorem stepN_release {s : State} {n : Nat} {rest : List Event}
    (henv : s.env = List.replicate n .engine ++ .rst true :: rest) (hr : s.rstN = false) :
    stepN (n + 1) s = .next (State.afterReset s.params (s.obufDraw + 1) rest) := by
  rw [stepN_add (stepN_engine_inReset henv hr), stepN_one, step_release (State.setEnv_env _ _) hr]
  rfl

/-- Settles O21: the low level moves the pin alone, the engine turns pass, and the release resets the block. -/
theorem resetCancels : Obligations.ResetCancels := by
  intro s n rest henv
  have hlow := (stepN_one s).trans (step_assert henv)
  rw [show n + 2 = 1 + (n + 1) by omega, stepN_add hlow, stepN_release rfl rfl]
  rfl

/-! ## A completion comes -/

/-- Events with no reset among them are host transactions, then nothing or a turn of the engine. -/
theorem hosts_then_engine {es : List Event} (h : ∀ e ∈ es, e.isRst = false) :
    ∃ hosts tail rest, es = hosts ++ tail ∧ (∀ e ∈ hosts, e.isHost = true) ∧
      ((tail = [] ∧ rest = []) ∨ tail = .engine :: rest) := by
  induction es with
  | nil => exact ⟨[], [], [], rfl, by simp, .inl ⟨rfl, rfl⟩⟩
  | cons e es ih =>
    obtain ⟨he, hes⟩ := List.forall_mem_cons.mp h
    cases e with
    | rst level => simp [Event.isRst] at he
    | engine => exact ⟨[], _, es, rfl, by simp, .inr rfl⟩
    | host x =>
      obtain ⟨hosts, tail, rest, rfl, hhosts, htail⟩ := ih hes
      exact ⟨.host x :: hosts, tail, rest, rfl, List.forall_mem_cons.mpr ⟨rfl, hhosts⟩, htail⟩

/-- A completion leaves the block idle with an outcome pending (R146). -/
theorem State.complete_status (s : State) : s.complete.status.busy = false ∧ s.complete.status.done = true := by
  obtain ⟨r, out, g, -, -, heq⟩ := s.complete_cases
  rw [heq]
  exact ⟨rfl, rfl⟩

/-- A completion leaves the waiting events. -/
theorem State.complete_env (s : State) : s.complete.env = s.env := by
  obtain ⟨r, out, g, -, -, heq⟩ := s.complete_cases
  rw [heq]
  rfl

/-- Settles O16: the host transactions before the first engine turn leave the command as it is, and that turn completes
it. -/
theorem completionComes : Obligations.CompletionComes := by
  intro s hr hb hrst
  obtain ⟨hosts, tail, rest, henv, hhosts, htail⟩ := hosts_then_engine hrst
  obtain ⟨t, hrun, hsame, rfl⟩ := stepN_host_busy hhosts henv hr hb
  have hbusy : t.status.busy = true := hsame.busy.trans hb
  have hstep : step t = .next (t.setEnv rest).complete := by
    rw [step_engineTurn htail, State.engineTurn_busy (s := t.setEnv rest) (hsame.rstN.trans hr) hbusy]
  obtain ⟨hidle, hdone⟩ := (t.setEnv rest).complete_status
  refine ⟨hosts.length, t, _, ?_, hrun, hbusy, hsame.input, hsame.engine, hstep, ?_, hidle, hdone⟩
  · simp [henv]
  · rw [State.complete_env, State.setEnv_env]

end Sys2Proof.Machine
